-- ==== Sys2Proof/Word.lean ====
section
/-!
DEFINITION. The words of the numenc codec block and the three names that select a codec
(spec 00_scope R3, R9, R11; 30_encoding R60).
-/

namespace Sys2Proof

/-- One byte of a key (20_memory R41). -/
abbrev Byte := BitVec 8

/-- A command word `cmd` (30_encoding R60): always eight bits. -/
abbrev Cmd := BitVec 8

/-- The direction of an operation (30_encoding R60, field `DIR`). -/
inductive Dir where
  | encode
  | decode
deriving DecidableEq, Repr

/-- The kind of a codec (30_encoding R60, field `KIND`). -/
inductive Kind where
  | signed
  | unsigned
  | float
deriving DecidableEq, Repr

/-- The width W of a codec (00_scope R9; 30_encoding R60, field `WCODE`). -/
inductive Width where
  | w8
  | w16
  | w32
  | w64
deriving DecidableEq, Repr

/-- W in bits. -/
def Width.bits : Width → Nat
  | .w8 => 8
  | .w16 => 16
  | .w32 => 32
  | .w64 => 64

/-- W/8, the length of a key of this width (00_scope R9). -/
def Width.bytes : Width → Nat
  | .w8 => 1
  | .w16 => 2
  | .w32 => 4
  | .w64 => 8

/-- A codec operation: one direction of one (kind, width) pair (00_scope R3). -/
structure Codec where
  dir : Dir
  kind : Kind
  width : Width
deriving DecidableEq, Repr

end Sys2Proof
end

