-- ==== Sys2Proof/Syntax.lean ====
section
/-!
DEFINITION. The operations of the block: one constructor per row of the opcode table
(30_encoding R63), in the table's order. An operation has no operand fields: its one operand
arrives on the request ports (30_encoding R66).
-/

namespace Sys2Proof

/-- The 20 operations of 30_encoding R63. -/
inductive Instr where
  | encS8 | decS8 | encU8 | decU8
  | encS16 | decS16 | encU16 | decU16
  | encS32 | decS32 | encU32 | decU32
  | encF32 | decF32
  | encS64 | decS64 | encU64 | decU64
  | encF64 | decF64
deriving DecidableEq, Repr

/-- The codec and direction of each operation, the columns "codec", "direction" and "W" of
30_encoding R63. -/
def Instr.codec : Instr → Codec
  | .encS8  => ⟨.encode, .signed, .w8⟩
  | .decS8  => ⟨.decode, .signed, .w8⟩
  | .encU8  => ⟨.encode, .unsigned, .w8⟩
  | .decU8  => ⟨.decode, .unsigned, .w8⟩
  | .encS16 => ⟨.encode, .signed, .w16⟩
  | .decS16 => ⟨.decode, .signed, .w16⟩
  | .encU16 => ⟨.encode, .unsigned, .w16⟩
  | .decU16 => ⟨.decode, .unsigned, .w16⟩
  | .encS32 => ⟨.encode, .signed, .w32⟩
  | .decS32 => ⟨.decode, .signed, .w32⟩
  | .encU32 => ⟨.encode, .unsigned, .w32⟩
  | .decU32 => ⟨.decode, .unsigned, .w32⟩
  | .encF32 => ⟨.encode, .float, .w32⟩
  | .decF32 => ⟨.decode, .float, .w32⟩
  | .encS64 => ⟨.encode, .signed, .w64⟩
  | .decS64 => ⟨.decode, .signed, .w64⟩
  | .encU64 => ⟨.encode, .unsigned, .w64⟩
  | .decU64 => ⟨.decode, .unsigned, .w64⟩
  | .encF64 => ⟨.encode, .float, .w64⟩
  | .decF64 => ⟨.decode, .float, .w64⟩

end Sys2Proof
end

