-- ==== Sys2Proof/WellFormed.lean ====
section
/-!
DEFINITION. What makes a command word, a codec and an instruction well formed
(00_scope R9; 30_encoding R60, R61).
-/

namespace Sys2Proof

/-- The four fields of a command word (30_encoding R60). -/
structure CmdFields where
  /-- bits 7:5 -/
  rsvd : BitVec 3
  /-- bits 4:3 -/
  wcode : BitVec 2
  /-- bits 2:1 -/
  kind : BitVec 2
  /-- bit 0 -/
  dir : BitVec 1
deriving DecidableEq, Repr

/-- First condition of 30_encoding R61: RSVD = 000. -/
def CmdFields.rsvdClear (f : CmdFields) : Bool := f.rsvd == 0b000#3

/-- Second condition of 30_encoding R61: KIND ≠ 11. -/
def CmdFields.kindUsed (f : CmdFields) : Bool := f.kind != 0b11#2

/-- Third condition of 30_encoding R61: KIND = 10 implies WCODE ∈ {10, 11}. -/
def CmdFields.floatWidth (f : CmdFields) : Bool :=
  f.kind != 0b10#2 || f.wcode == 0b10#2 || f.wcode == 0b11#2

/-- 30_encoding R61: a command word is legal exactly when all three conditions hold. -/
def CmdFields.legal (f : CmdFields) : Bool := f.rsvdClear && f.kindUsed && f.floatWidth

/-- 00_scope R9: the integer codecs have all four widths, the float codecs only 32 and 64. -/
def Codec.wf (c : Codec) : Bool :=
  match c.kind, c.width with
  | .float, .w8 => false
  | .float, .w16 => false
  | _, _ => true

/-- An instruction is well formed when its codec exists (00_scope R9). It has no operand fields,
so nothing else can be wrong with it. -/
def Instr.wf (i : Instr) : Bool := i.codec.wf

end Sys2Proof
end

