-- ==== Sys2Proof/Decode.lean ====
section
/-!
DEFINITION. The command decoder (30_encoding R60 to R64), and after it the encoder, written from
the "cmd" column of 30_encoding R63 on its own.
-/

namespace Sys2Proof

/-- Why a word selects no operation: the three groups of 30_encoding R64. -/
inductive DecodeError where
  /-- RSVD ≠ 000 -/
  | reservedBits
  /-- KIND = 11 with RSVD = 000 -/
  | reservedKind
  /-- KIND = 10 with W ∈ (8, 16) -/
  | noSuchFloatWidth
deriving DecidableEq, Repr

/-- The fields of a command word (30_encoding R60). -/
def splitCmd (c : Cmd) : CmdFields where
  rsvd := c.extractLsb' 5 3
  wcode := c.extractLsb' 3 2
  kind := c.extractLsb' 1 2
  dir := c.extractLsb' 0 1

/-- 30_encoding R60, field WCODE: W = 8 · 2^WCODE. -/
def widthOfCode (w : BitVec 2) : Width :=
  if w = 0b00#2 then .w8 else if w = 0b01#2 then .w16 else if w = 0b10#2 then .w32 else .w64

/-- 30_encoding R60, field KIND; the code 11 is reserved. -/
def kindOfCode (k : BitVec 2) : Option Kind :=
  if k = 0b00#2 then some .signed else if k = 0b01#2 then some .unsigned
  else if k = 0b10#2 then some .float else none

/-- 30_encoding R60, field DIR. -/
def dirOfCode (d : BitVec 1) : Dir := if d = 0#1 then .encode else .decode

/-- The operation of a codec and direction (30_encoding R63), where there is one. -/
def instrOfCodec (c : Codec) : Option Instr :=
  match c.dir, c.kind, c.width with
  | .encode, .signed, .w8 => some .encS8
  | .encode, .signed, .w16 => some .encS16
  | .encode, .signed, .w32 => some .encS32
  | .encode, .signed, .w64 => some .encS64
  | .decode, .signed, .w8 => some .decS8
  | .decode, .signed, .w16 => some .decS16
  | .decode, .signed, .w32 => some .decS32
  | .decode, .signed, .w64 => some .decS64
  | .encode, .unsigned, .w8 => some .encU8
  | .encode, .unsigned, .w16 => some .encU16
  | .encode, .unsigned, .w32 => some .encU32
  | .encode, .unsigned, .w64 => some .encU64
  | .decode, .unsigned, .w8 => some .decU8
  | .decode, .unsigned, .w16 => some .decU16
  | .decode, .unsigned, .w32 => some .decU32
  | .decode, .unsigned, .w64 => some .decU64
  | .encode, .float, .w32 => some .encF32
  | .encode, .float, .w64 => some .encF64
  | .decode, .float, .w32 => some .decF32
  | .decode, .float, .w64 => some .decF64
  | _, .float, .w8 => none
  | _, .float, .w16 => none

/-- Decode a command word in one step (30_encoding R62), or name the group of 30_encoding R64 that
makes it illegal. No other bit of the request takes part. -/
def decode (c : Cmd) : Except DecodeError Instr :=
  let f := splitCmd c
  if f.rsvd ≠ 0b000#3 then .error .reservedBits
  else
    match kindOfCode f.kind with
    | none => .error .reservedKind
    | some k =>
      match instrOfCodec ⟨dirOfCode f.dir, k, widthOfCode f.wcode⟩ with
      | none => .error .noSuchFloatWidth
      | some i => .ok i

/-- The command word of each operation, the column "cmd (hex)" of 30_encoding R63. -/
def encode : Instr → Cmd
  | .encS8  => 0x00#8
  | .decS8  => 0x01#8
  | .encU8  => 0x02#8
  | .decU8  => 0x03#8
  | .encS16 => 0x08#8
  | .decS16 => 0x09#8
  | .encU16 => 0x0A#8
  | .decU16 => 0x0B#8
  | .encS32 => 0x10#8
  | .decS32 => 0x11#8
  | .encU32 => 0x12#8
  | .decU32 => 0x13#8
  | .encF32 => 0x14#8
  | .decF32 => 0x15#8
  | .encS64 => 0x18#8
  | .decS64 => 0x19#8
  | .encU64 => 0x1A#8
  | .decU64 => 0x1B#8
  | .encF64 => 0x1C#8
  | .decF64 => 0x1D#8

/-- The instruction the decoder reads from the opcode table's numbering of its bits. Every command
is exactly one 8-bit word (30_encoding R68), so a number that needs more bits is no command. -/
def decodeTableWord (nbits w : Nat) : Option Instr :=
  if nbits ≤ 8 ∧ w < 2 ^ nbits then (decode (BitVec.ofNat 8 w)).toOption else none

end Sys2Proof
end

