-- ==== Sys2Proof/Machine/Values.lean ====
section
/-!
DEFINITION. The values of a transaction: tags, operands, results, errors and responses (10_state R24
to R26; 30_encoding R65), and the request and response ports that carry them (10_state R27, R29).
-/

namespace Sys2Proof.Machine

/-- The category of an operand or result (30_encoding R65). OTHER has the four codes 1xx; `lo` is
the code's low two bits, because an error reports the code that was sent (90 C8). -/
inductive Tag where
  | int
  | float32
  | float64
  | bytes
  | other (lo : BitVec 2)
deriving DecidableEq, Repr, Inhabited

/-- An integer as the block sees it on `op_int`, `op_int_oor` and `op_int_oor_neg` (10_state R27,
R28): its value, or only that it lies beyond the 66-bit port, and its sign. -/
inductive PortInt where
  | exact (v : Int)
  | beyond (neg : Bool)
deriving DecidableEq, Repr, Inhabited

/-- The operand of a transaction as the block sees it (10_state R25, R28). A byte sequence is its
count and the bytes that the ports present: all of them for a count of at most 8, otherwise none
(10_state R28: "the contents of bs are not presented and no rule reads them"). -/
inductive Operand where
  | int (v : PortInt)
  | float32 (b : BitVec 32)
  | float64 (b : BitVec 64)
  | bytes (len : Nat) (bs : List Byte)
  | other (lo : BitVec 2)
deriving DecidableEq, Repr, Inhabited

/-- The tag of an operand is its constructor (10_state R25, `tagOf` of 43_validation R183). -/
def Operand.tag : Operand → Tag
  | .int _ => .int
  | .float32 _ => .float32
  | .float64 _ => .float64
  | .bytes _ _ => .bytes
  | .other lo => .other lo

/-- The result of a transaction (10_state R26, `Result`). -/
inductive Result where
  | int (v : Int)
  | float32 (b : BitVec 32)
  | float64 (b : BitVec 64)
  | bytes (bs : List Byte)
deriving DecidableEq, Repr, Inhabited

/-- What an error reports beside its command (10_state R26). `ι` is the type of an offending
integer: a mathematical integer in R26, a `PortInt` in the block. -/
inductive ErrorInfo (ι : Type) where
  /-- TypeKind, `ERR_TYPE` -/
  | type (expected actual : Tag)
  /-- RangeKind of an integer, `ERR_RANGE_VALUE` -/
  | rangeValue (value : ι) (min max : Int)
  /-- RangeKind of a key length, `ERR_RANGE_LENGTH` -/
  | rangeLength (expected actual : Nat)
  /-- `ERR_ILLEGAL`: the command word selects no operation -/
  | illegal
deriving DecidableEq, Repr, Inhabited

/-- A response (10_state R26): a result, or an error that names the command of its request. -/
inductive Response (ι : Type) where
  | ok (r : Result)
  | err (cmd : Cmd) (info : ErrorInfo ι)
deriving DecidableEq, Repr, Inhabited

/-- The response as the block computes it. -/
abbrev BlockResponse := Response PortInt

/-- The request ports that carry a command and its operand (10_state R27). -/
structure ReqPorts where
  cmd : Cmd
  opTag : BitVec 3
  opInt : BitVec 66
  opIntOor : Bool
  opIntOorNeg : Bool
  opBits : BitVec 64
  opLen : BitVec 32
  opBytes : BitVec 64
deriving DecidableEq, Repr, Inhabited

/-- Every request port at 0. -/
def ReqPorts.zero : ReqPorts :=
  { cmd := 0, opTag := 0, opInt := 0, opIntOor := false, opIntOorNeg := false, opBits := 0,
    opLen := 0, opBytes := 0 }

/-- The response ports that carry a response (10_state R29). -/
structure RspPorts where
  rspStatus : BitVec 2
  rspTag : BitVec 3
  rspInt : BitVec 66
  rspBits : BitVec 64
  rspLen : BitVec 32
  rspBytes : BitVec 64
  errCmd : Cmd
  errLen : Bool
  errExpectedTag : BitVec 3
  errActualTag : BitVec 3
  errValue : BitVec 66
  errValueOor : Bool
  errValueOorNeg : Bool
  errMin : BitVec 66
  errMax : BitVec 66
  errExpectedLen : BitVec 32
  errActualLen : BitVec 32
deriving DecidableEq, Repr, Inhabited

/-- Every response port at 0: the values of 10_state R35, and what every port holds that 10_state
R30 does not set. -/
def RspPorts.zero : RspPorts :=
  { rspStatus := 0, rspTag := 0, rspInt := 0, rspBits := 0, rspLen := 0, rspBytes := 0,
    errCmd := 0, errLen := false, errExpectedTag := 0, errActualTag := 0, errValue := 0,
    errValueOor := false, errValueOorNeg := false, errMin := 0, errMax := 0,
    errExpectedLen := 0, errActualLen := 0 }

/-- The settings of the parameter `NAN_POLICY` (42_float R145, R146). -/
inductive NanPolicy where
  | draw
  | mechanical
deriving DecidableEq, Repr, Inhabited

/-- One draw of 42_float R145 or R146: any W-bit pattern (of a key, or of a decoded value), or any
error response naming `cmd`. -/
inductive NanDraw (w : Nat) where
  | answer (x : BitVec w)
  | error (info : ErrorInfo PortInt)
deriving DecidableEq, Repr, Inhabited

end Sys2Proof.Machine
end

