-- ==== Sys2Proof/Config.lean ====
section
/-!
DEFINITION. The parameters of 00_scope R10: those the spec fixes are numbers, those it leaves OPEN
are constants without a body, so that no proof can rest on a value of theirs. The free values stand
here too: what the spec calls "any value".
-/

namespace Sys2Proof.Config

/-- `INT_PORT_BITS` (00_scope R10): the width of the integer ports. -/
abbrev intPortBits : Nat := 66

/-- `LEN_PORT_BITS` (00_scope R10): the width of the byte-count ports. -/
abbrev lenPortBits : Nat := 32

/-- `LATENCY` (00_scope R10, 70_reset R238): OPEN, any natural number. -/
opaque latency : Nat

/-- `FIFO_DEPTH` − 1: OPEN, any natural number, so that `FIFO_DEPTH` ≥ 1. -/
opaque fifoSpare : Nat

/-- `FIFO_DEPTH` (00_scope R10, 10_state R34): any natural number ≥ 1. -/
def fifoDepth : Nat := fifoSpare + 1

/-- `READY_DELAY` (00_scope R10, 10_state R35): OPEN, any natural number. -/
opaque readyDelay : Nat

/-- `CHANNELS` − 1: OPEN, any natural number, so that `CHANNELS` ≥ 1. -/
opaque moreChannels : Nat

/-- `CHANNELS` (00_scope R10, 60_exceptions R214): any natural number ≥ 1. -/
def channels : Nat := moreChannels + 1

/-- `NAN_POLICY` (00_scope R10, 92 D13, D14): OPEN. -/
opaque nanPolicy : Sys2Proof.Machine.NanPolicy

/-- The draws of 42_float R145 and R146 for a W-bit format: FREE VALUES, one for each index. -/
opaque nanDraw (w : Nat) : Nat → Sys2Proof.Machine.NanDraw w

/-- What the response ports hold in a cycle with `rsp_valid` = 0, outside the cycles of 10_state R35
(93 U7 "any value"): FREE VALUES, one for each index. -/
opaque idleRsp : Nat → Sys2Proof.Machine.RspPorts

/-- What a one-bit output holds before the first reset (70_reset R233): FREE VALUES. -/
opaque powerUpBit : Nat → Bool

/-- What the response ports hold before the first reset (70_reset R233): FREE VALUES, one for each
channel, unrelated to those of later cycles. -/
opaque powerUpRsp : Nat → Sys2Proof.Machine.RspPorts

/-- What `err_expected_len` holds for an expected count that `LEN_PORT_BITS` cannot carry, where
10_state R30 says "= x" and gives no value: FREE VALUES, one for each count (log entry 24). -/
opaque longExpectedLen : Nat → BitVec lenPortBits

end Sys2Proof.Config
end

