-- ==== Sys2Proof/Machine/Operands.lean ====
section
/-!
DEFINITION. How a pattern becomes bytes and back (20_memory R41, R42), the tag codes (30_encoding
R65), and how the request ports are read as an operand (10_state R28; 30_encoding R66).
-/

namespace Sys2Proof.Machine

/-- `toBE_W` (00_scope R13, 20_memory R41): the W/8 bytes of a W-bit pattern, the most significant
first: byte i is e[W−1−8i : W−8−8i]. -/
def toBE {w : Nat} (e : BitVec w) : List Byte :=
  (List.range (w / 8)).map fun i => e.extractLsb' (w - 8 - 8 * i) 8

/-- `BE` (00_scope R13, 20_memory R42): Σ bs[i] · 256^(len−1−i), summed from the first byte on. -/
def fromBE (bs : List Byte) : Nat := bs.foldl (fun acc b => 256 * acc + b.toNat) 0

/-- The code of a tag on `op_tag` and `rsp_tag` (30_encoding R65). -/
def tagCode : Tag → BitVec 3
  | .int => 0b000#3
  | .float32 => 0b001#3
  | .float64 => 0b010#3
  | .bytes => 0b011#3
  | .other lo => 0b1#1 ++ lo

/-- The tag of a code (30_encoding R65): every 1xx is OTHER. -/
def tagOfCode (c : BitVec 3) : Tag :=
  if c = 0b000#3 then .int else if c = 0b001#3 then .float32
  else if c = 0b010#3 then .float64 else if c = 0b011#3 then .bytes
  else .other (c.extractLsb' 0 2)

/-- The code NONE of `rsp_tag` on every error response (30_encoding R65, 92 D29). -/
def tagNone : BitVec 3 := 0b111#3

/-- The integer on the request ports (10_state R28): `sext_66(op_int)`, or with `op_int_oor` = 1 a
value beyond the port, of which only the sign is there. -/
def portInt (p : ReqPorts) : PortInt :=
  if p.opIntOor then .beyond p.opIntOorNeg else .exact p.opInt.toInt

/-- The bytes a count of at most 8 presents on `op_bytes` (10_state R28): bs[i] is
op_bytes[8·(op_len−1−i)+7 : 8·(op_len−1−i)]. With a larger count none are presented. -/
def portBytes (len : Nat) (lane : BitVec 64) : List Byte :=
  if len ≤ 8 then (List.range len).map fun i => lane.extractLsb' (8 * (len - 1 - i)) 8 else []

/-- The operand on the request ports (10_state R28). Ports the tag does not use are not read. -/
def portOperand (p : ReqPorts) : Operand :=
  match tagOfCode p.opTag with
  | .int => .int (portInt p)
  | .float32 => .float32 (p.opBits.extractLsb' 0 32)
  | .float64 => .float64 p.opBits
  | .bytes => .bytes p.opLen.toNat (portBytes p.opLen.toNat p.opBytes)
  | .other lo => .other lo

end Sys2Proof.Machine
end

