-- ==== Sys2Proof/Machine/Flags.lean ====
section
/-!
DEFINITION. The block has no condition codes (10_state R31); the nearest thing is the status and the
error fields of a response. This file gives them: the status codes (60_exceptions R200) and the
mapping of a response to the response ports (10_state R30).
-/

namespace Sys2Proof.Machine

/-- The status code of a response (60_exceptions R200). -/
def responseStatus : BlockResponse → BitVec 2
  | .ok _ => 0b00#2
  | .err _ (.type _ _) => 0b01#2
  | .err _ (.rangeValue _ _ _) => 0b10#2
  | .err _ (.rangeLength _ _) => 0b10#2
  | .err _ .illegal => 0b11#2

/-- A count on a `LEN_PORT_BITS` port, saturated at 2^32 − 1 (10_state R30). -/
def lenPort (n : Nat) : BitVec 32 := BitVec.ofNat 32 (min n (2 ^ 32 - 1))

/-- The ports of a result (10_state R30, the four OK rows); all others are 0. -/
def resultPorts (r : Result) : RspPorts :=
  match r with
  | .int v => { RspPorts.zero with rspTag := tagCode .int, rspInt := BitVec.ofInt 66 v }
  | .float32 b => { RspPorts.zero with rspTag := tagCode .float32, rspBits := b.setWidth 64 }
  | .float64 b => { RspPorts.zero with rspTag := tagCode .float64, rspBits := b }
  | .bytes bs =>
    { RspPorts.zero with
      rspTag := tagCode .bytes, rspLen := lenPort bs.length,
      rspBytes := BitVec.ofNat 64 (fromBE bs) }

/-- The expected count of a length error: x itself (10_state R30). An x beyond the port is reachable
only in a drawn NaN error (42_float R145, R146); R30 does not say what the port holds then, and the
model leaves it a free value: a DESIGN CHOICE (log entry 24). -/
def expectedLenPort (x : Nat) : BitVec 32 :=
  if x < 2 ^ 32 then BitVec.ofNat 32 x else Config.longExpectedLen x

/-- An offending integer on its ports (10_state R30): `err_value` when it fits in 66 bits, otherwise
`err_value_oor` and its sign, with `err_value` = 0. -/
def withErrValue (p : RspPorts) : PortInt → RspPorts
  | .exact v =>
    if -2 ^ 65 ≤ v ∧ v < 2 ^ 65 then { p with errValue := BitVec.ofInt 66 v }
    else { p with errValueOor := true, errValueOorNeg := decide (v < 0) }
  | .beyond neg => { p with errValueOor := true, errValueOorNeg := neg }

/-- The ports of an error (10_state R30, the four error rows); all others are 0. -/
def errorPorts (cmd : Cmd) (e : ErrorInfo PortInt) : RspPorts :=
  let base := { RspPorts.zero with
    rspStatus := responseStatus (.err cmd e), rspTag := tagNone, errCmd := cmd }
  match e with
  | .type expected actual =>
    { base with errExpectedTag := tagCode expected, errActualTag := tagCode actual }
  | .rangeValue value min max =>
    withErrValue { base with errMin := BitVec.ofInt 66 min, errMax := BitVec.ofInt 66 max } value
  | .rangeLength expected actual =>
    { base with
      errLen := true, errExpectedLen := expectedLenPort expected, errActualLen := lenPort actual }
  | .illegal => base

/-- The response ports of a response (10_state R30). -/
def responsePorts : BlockResponse → RspPorts
  | .ok r => resultPorts r
  | .err cmd e => errorPorts cmd e

end Sys2Proof.Machine
end

