-- ==== Sys2Proof/Machine/State.lean ====
section
/-!
DEFINITION. The state of the block with its channels, in-flight lists and ports (10_state R27 to
R35), and the host's inputs that the step reads (60_exceptions R217; 70_reset R239).
-/

namespace Sys2Proof.Machine

/-- Why the machine stops. No instruction raises either. -/
inductive Fault where
  /-- Raised by the step for any cycle but a reset before the first reset after power-up: "a model
  gives the block no step" (70_reset R233; 93 U6, stuck). Safe: the model stops where the block's
  outputs are unspecified. -/
  | noStepBeforeReset
  /-- Raised by the step for a cycle of a channel that the build does not have (00_scope R10,
  CHANNELS). Safe: no host can drive such a channel. -/
  | noSuchChannel
deriving DecidableEq, Repr

/-- Why an instruction has no meaning. Every instruction of this model has one. -/
inductive Refusal where
  /-- Raised by `exec` for an instruction without a meaning in this model. Safe: the model stops. -/
  | notModelled (mnemonic : String)
deriving DecidableEq, Repr

/-- What the host drives on one channel in one cycle (10_state R27, R29). -/
structure ChanIn where
  reqValid : Bool
  req : ReqPorts
  rspReady : Bool
deriving DecidableEq, Repr

/-- Every input port of a channel at 0. -/
def ChanIn.zero : ChanIn := { reqValid := false, req := ReqPorts.zero, rspReady := false }

/-- An entry of the in-flight list (10_state R34): the accepted request, the response it gets, and
the cycles until that response may be presented (70_reset R238). -/
structure InFlight where
  req : ReqPorts
  rsp : BlockResponse
  wait : Nat
deriving DecidableEq, Repr

/-- One channel. -/
structure Channel where
  /-- the input ports in the last cycle (10_state R27, R29) -/
  inp : ChanIn
  /-- output `req_ready` in the last cycle (10_state R27) -/
  reqReady : Bool
  /-- output `rsp_valid` in the last cycle (10_state R29) -/
  rspValid : Bool
  /-- the other response ports in the last cycle (10_state R29) -/
  rsp : RspPorts
  /-- the in-flight list, oldest first (10_state R34) -/
  inflight : List InFlight
  /-- the next cycle is the first after the release of reset (10_state R35) -/
  fresh : Bool
  /-- cycles after that first one before `req_ready` may be 1 (10_state R35) -/
  startup : Nat
  /-- the requests the program host has still to present, in order (70_reset R239) -/
  program : List ReqPorts
  /-- the run's accepted requests, oldest first (70_reset R239; log entry 15) -/
  accepted : List ReqPorts
  /-- the run's delivered (request, response) pairs, oldest first (70_reset R239; log entry 15) -/
  delivered : List (ReqPorts × BlockResponse)
deriving DecidableEq, Repr

/-- A channel right after a reset cycle (10_state R35; 70_reset R230): outputs 0, list empty. -/
def Channel.reset : Channel :=
  { inp := ChanIn.zero, reqReady := false, rspValid := false, rsp := RspPorts.zero, inflight := [],
    fresh := true, startup := Config.readyDelay, program := [], accepted := [], delivered := [] }

/-- What the host does in one step's cycle. -/
inductive HostEvent where
  /-- a cycle with `rst` = 1 (70_reset R230); `driven` is what the host drives meanwhile on the
  channels' input ports, the first channel first, and zeros where the list ends (70_reset R234) -/
  | reset (driven : List ChanIn)
  /-- a cycle of channel `k` with `rst` = 0 and these inputs -/
  | cycle (k : Nat) (inp : ChanIn)
deriving DecidableEq, Repr

/-- The wires of the datapath (92 D1): the request it serves and the response it computes. Idle
between transactions: the block holds no state (10_state R20; log entry 14). -/
structure Datapath where
  req : ReqPorts
  rsp : Option BlockResponse
deriving DecidableEq, Repr

/-- No transaction on the datapath. -/
def Datapath.idle : Datapath := { req := ReqPorts.zero, rsp := none }

/-- The machine: what the spec gives the block, and what the host will do. Plain data. -/
structure State where
  /-- `rst` has been 1 at a clock edge since power-up (70_reset R233) -/
  live : Bool
  /-- the channels (60_exceptions R214) -/
  channels : List Channel
  /-- the datapath's wires (92 D1) -/
  dp : Datapath
  /-- what the host drives in the coming cycles, the next one first (log entry 10) -/
  script : List HostEvent
  /-- the channel whose cycle comes next once the script is empty (log entry 10) -/
  turn : Nat
  /-- index of the next free value (log entry 4) -/
  free : Nat
deriving DecidableEq, Repr

/-- The machine right after a reset cycle (10_state R35; 70_reset R230, R239): CHANNELS channels,
all reset together, and a host that has nothing to present. -/
def State.reset : State :=
  { live := true, channels := List.replicate Config.channels Channel.reset, dp := Datapath.idle,
    script := [], turn := 0, free := 0 }

/-- A channel at power-up, its outputs unspecified (70_reset R233). -/
def Channel.powerUp (n : Nat) : Channel :=
  { Channel.reset with
    reqReady := Config.powerUpBit (2 * n), rspValid := Config.powerUpBit (2 * n + 1),
    rsp := Config.powerUpRsp n }

/-- The machine at power-up, before its first reset (70_reset R233). -/
def State.powerUp : State :=
  { State.reset with live := false, channels := (List.range Config.channels).map Channel.powerUp }

end Sys2Proof.Machine
end

