-- ==== Sys2Proof/Machine/Validate.lean ====
section
/-!
DEFINITION. The input validator (43_validation R170 to R183): one procedure for the integer encodes,
one for the float encodes, one for the decodes. Each returns the validated value or what the error
reports; the type check comes before the range or length check (43_validation R179).
-/

namespace Sys2Proof.Machine

/-- `ValidateEncInt` (43_validation R183, rules R172 and R174). An integer beyond the port lies
outside the bounds of every codec (43_validation R174). -/
def validateEncInt (op : Operand) (min max : Int) : Except (ErrorInfo PortInt) Int :=
  match op with
  | .int (.exact v) =>
    if v < min ∨ max < v then .error (.rangeValue (.exact v) min max) else .ok v
  | .int (.beyond neg) => .error (.rangeValue (.beyond neg) min max)
  | op => .error (.type .int op.tag)

/-- `ValidateEncFloat` at W = 32 (43_validation R183, rules R173 and R175): NaN is not tested. -/
def validateEncFloat32 (op : Operand) : Except (ErrorInfo PortInt) (BitVec 32) :=
  match op with
  | .float32 b => .ok b
  | op => .error (.type .float32 op.tag)

/-- `ValidateEncFloat` at W = 64 (43_validation R183, rules R173 and R175): NaN is not tested. -/
def validateEncFloat64 (op : Operand) : Except (ErrorInfo PortInt) (BitVec 64) :=
  match op with
  | .float64 b => .ok b
  | op => .error (.type .float64 op.tag)

/-- `ValidateDec` (43_validation R183, rules R176 and R177): the count must be W/8; the content of
the bytes is not checked (R178). -/
def validateDec (op : Operand) (w : Nat) : Except (ErrorInfo PortInt) (List Byte) :=
  match op with
  | .bytes len bs => if len ≠ w / 8 then .error (.rangeLength (w / 8) len) else .ok bs
  | op => .error (.type .bytes op.tag)

end Sys2Proof.Machine
end

