-- ==== Sys2Proof/Machine/Ops.lean ====
section
/-!
DEFINITION. The named operations over the state: answering a request, raising an error, drawing an
open response, and what one clock cycle does to a channel.
-/

namespace Sys2Proof.Machine

/-- The outcome of an instruction or a step. -/
abbrev Outcome := Host.Outcome State Fault Refusal

/-- Go on from a next state; a stop stays a stop. -/
def onNext (o : Outcome) (f : State → State) : Outcome :=
  match o with
  | .next s => .next (f s)
  | .fault r => .fault r
  | .refused r => .refused r

/-! ### The datapath -/

/-- The operand of the request being served (10_state R28). -/
def State.operand (s : State) : Operand := portOperand s.dp.req

/-- The datapath computes a response; nothing else changes (20_memory R47, R48). -/
def State.answer (s : State) (r : BlockResponse) : State :=
  { s with dp := { s.dp with rsp := some r } }

/-- `respond OK(…)` (00_scope R14). -/
def respond (r : Result) (s : State) : Outcome := .next (s.answer (.ok r))

/-- `raise …` (00_scope R14; 60_exceptions R205): the block's one exceptional event. The error is
the response of the failing request; nothing is saved, no mode changes, no vector is taken and the
machine goes on (60_exceptions R206), so there is no return from it. -/
def raise (cmd : Cmd) (e : ErrorInfo PortInt) (s : State) : Outcome := .next (s.answer (.err cmd e))

/-- Respond with a validated value, or raise what the validator found (43_validation R170). -/
def afterCheck {α : Type} (cmd : Cmd) (checked : Except (ErrorInfo PortInt) α)
    (k : α → Outcome) (s : State) : Outcome :=
  match checked with
  | .error e => raise cmd e s
  | .ok a => k a

/-- The response of one draw (42_float R145, R146): any pattern, or any error that names `cmd`. -/
def drawResponse {w : Nat} (cmd : Cmd) (wrap : BitVec w → Result) : NanDraw w → BlockResponse
  | .answer x => .ok (wrap x)
  | .error e => .err cmd e

/-- The response where the spec leaves it to `NAN_POLICY` (42_float R145, R146): under MECHANICAL
the datapath's own pattern, under DRAW what is drawn. -/
def openResponse {w : Nat} (policy : NanPolicy) (cmd : Cmd) (wrap : BitVec w → Result)
    (mechanical : BitVec w) (draw : NanDraw w) : BlockResponse :=
  match policy with
  | .mechanical => .ok (wrap mechanical)
  | .draw => drawResponse cmd wrap draw

/-- Respond where the spec leaves the response open; each occurrence draws afresh (42_float R145,
R146), the free value whose index stands in the state. -/
def respondOpen {w : Nat} (cmd : Cmd) (wrap : BitVec w → Result) (mechanical : BitVec w)
    (s : State) : Outcome :=
  .next { s.answer (openResponse Config.nanPolicy cmd wrap mechanical (Config.nanDraw w s.free)) with
    free := s.free + 1 }

/-! ### The ports and the in-flight list of a channel -/

/-- The list has room and the delay after reset is over (10_state R34, R35; log entries 7, 8). -/
def Channel.canAccept (c : Channel) : Bool :=
  !c.fresh && c.startup == 0 && decide (c.inflight.length < Config.fifoDepth)

/-- The cycle begins: the host drives the input ports, and the block drives `req_ready`. -/
def Channel.drive (c : Channel) (inp : ChanIn) : Channel :=
  { c with inp := inp, reqReady := c.canAccept }

/-- "A request is accepted in a cycle where req_valid = 1 and req_ready = 1" (10_state R27). -/
def Channel.accepting (c : Channel) : Bool := c.inp.reqValid && c.reqReady

/-- The accepted request and its response enter the in-flight list (10_state R34). -/
def Channel.push (c : Channel) (req : ReqPorts) (rsp : BlockResponse) : Channel :=
  { c with
    inflight := c.inflight ++ [{ req := req, rsp := rsp, wait := Config.latency }],
    accepted := c.accepted ++ [req] }

/-- The oldest entry's response is presented once its LATENCY is over (20_memory R52; 70_reset R238),
and from then on until it is taken (70_reset R237). -/
def Channel.presenting (c : Channel) : Bool :=
  match c.inflight with
  | [] => false
  | e :: _ => e.wait == 0

/-- The response ports of a cycle without a response: 0 in the first cycle after reset (10_state
R35), otherwise a free value (93 U7; log entry 5). -/
def Channel.idlePorts (c : Channel) (n : Nat) : RspPorts :=
  if c.fresh then RspPorts.zero else Config.idleRsp n

/-- What the block drives on the response ports in this cycle. -/
def Channel.portsNow (c : Channel) (n : Nat) : RspPorts :=
  match c.inflight with
  | [] => c.idlePorts n
  | e :: _ => if e.wait = 0 then responsePorts e.rsp else c.idlePorts n

/-- The block drives `rsp_valid` and the response ports. -/
def Channel.present (c : Channel) (n : Nat) : Channel :=
  { c with rspValid := c.presenting, rsp := c.portsNow n }

/-- "A response is delivered in a cycle where rsp_valid = 1 and rsp_ready = 1" (10_state R29). -/
def Channel.delivering (c : Channel) : Bool := c.rspValid && c.inp.rspReady

/-- The oldest entry's request and response, if there is one. -/
def Channel.oldest (c : Channel) : List (ReqPorts × BlockResponse) :=
  c.inflight.head?.toList.map fun e => (e.req, e.rsp)

/-- A delivered response's entry leaves the list. -/
def Channel.deliver (c : Channel) : Channel :=
  { c with
    inflight := if c.delivering then c.inflight.tail else c.inflight,
    delivered := if c.delivering then c.delivered ++ c.oldest else c.delivered }

/-- An entry one cycle later. -/
def InFlight.tick (e : InFlight) : InFlight := { e with wait := e.wait - 1 }

/-- The clock edge that ends the cycle: every entry, and the delay after reset, counts down. -/
def Channel.tick (c : Channel) : Channel :=
  { c with
    inflight := c.inflight.map InFlight.tick, fresh := false,
    startup := if c.fresh then c.startup else c.startup - 1 }

/-- The rest of a cycle, after the request of this cycle, if any, has entered the list. -/
def Channel.finish (c : Channel) (n : Nat) : Channel := (c.present n).deliver.tick

/-- What the program host drives in a channel's cycle (60_exceptions R217; log entry 10): the next
request of the channel's program, if any is left, and `rsp_ready` = 1. -/
def Channel.programIn (c : Channel) : ChanIn :=
  match c.program with
  | [] => { ChanIn.zero with rspReady := true }
  | p :: _ => { reqValid := true, req := p, rspReady := true }

/-- The program host has had its request accepted and goes to the next one. -/
def Channel.advanceProgram (c : Channel) : Channel := { c with program := c.program.tail }

/-- A channel in a reset cycle (10_state R35; 70_reset R230, R234): whatever the host drives, the
outputs are 0, the in-flight list is emptied without responses, and nothing is accepted. The
program host keeps the requests it has not had accepted. -/
def Channel.resetCycle (c : Channel) (inp : ChanIn) : Channel :=
  { Channel.reset with inp := inp, program := c.program }

/-! ### The whole block -/

/-- A cycle with `rst` = 1 (70_reset R230): all channels are reset together (60_exceptions R214). -/
def State.resetCycle (s : State) (driven : List ChanIn) : State :=
  { s with
    live := true,
    channels := s.channels.mapIdx fun k c => c.resetCycle (driven.getD k ChanIn.zero),
    dp := Datapath.idle }

/-- The datapath gets the accepted request, and has no response yet. -/
def State.route (s : State) (req : ReqPorts) : State := { s with dp := { req := req, rsp := none } }

/-- The channel's request enters its list with the response the datapath computed, if any. -/
def Channel.take (c : Channel) (dp : Datapath) : Channel :=
  match dp.rsp with
  | none => c
  | some r => c.push dp.req r

/-- The end of channel `k`'s cycle: `c` is the channel with this cycle's inputs. The datapath is
idle again (10_state R20). -/
def State.endCycle (s : State) (k : Nat) (c : Channel) : State :=
  { s with
    channels := s.channels.set k ((c.take s.dp).finish s.free),
    dp := Datapath.idle, free := s.free + 1 }

/-- Channel 0 as the next cycle must find it to accept a request: the delay after reset over, and
room in the list. -/
def Channel.makeReady (c : Channel) : Channel :=
  { c with
    fresh := false, startup := 0,
    inflight := if c.inflight.length < Config.fifoDepth then c.inflight else [] }

end Sys2Proof.Machine
end

