-- ==== Sys2Proof/Machine/Signed.lean ====
section
/-!
DEFINITION. The signed integer codec (40_signed_int): the transforms R100 and R101, and the eight
operations R103 to R110.
-/

namespace Sys2Proof.Machine

/-- 2^(W−1), the pattern with only the sign bit set (`SIGNBIT_W`, 00_scope R12). -/
def signBit (w : Nat) : BitVec w := BitVec.ofNat w (2 ^ (w - 1))

/-- `SENC_W` (40_signed_int R100): (v mod 2^W) XOR 2^(W−1). -/
def senc (w : Nat) (v : Int) : BitVec w := BitVec.ofInt w v ^^^ signBit w

/-- `SDEC_W` (40_signed_int R101): sext_W(e XOR 2^(W−1)). -/
def sdec {w : Nat} (e : BitVec w) : Int := (e ^^^ signBit w).toInt

/-- The body of a signed encode (40_signed_int R103 to R106). -/
def signedEncode (cmd : Cmd) (w : Nat) (min max : Int) (s : State) : Outcome :=
  afterCheck cmd (validateEncInt s.operand min max)
    (fun v => respond (.bytes (toBE (senc w v))) s) s

/-- The body of a signed decode (40_signed_int R107 to R110). -/
def signedDecode (cmd : Cmd) (w : Nat) (s : State) : Outcome :=
  afterCheck cmd (validateDec s.operand w)
    (fun bs => respond (.int (sdec (BitVec.ofNat w (fromBE bs)))) s) s

/-- ENC.S8 (40_signed_int R103). -/
def execEncS8 (s : State) : Outcome :=
  signedEncode 0x00#8 8 (-128) 127 s

/-- ENC.S16 (40_signed_int R104). -/
def execEncS16 (s : State) : Outcome :=
  signedEncode 0x08#8 16 (-32768) 32767 s

/-- ENC.S32 (40_signed_int R105). INFERRED (00_scope R4; log entry 20). -/
def execEncS32 (s : State) : Outcome :=
  signedEncode 0x10#8 32 (-2147483648) 2147483647 s

/-- ENC.S64 (40_signed_int R106). -/
def execEncS64 (s : State) : Outcome :=
  signedEncode 0x18#8 64 (-9223372036854775808) 9223372036854775807 s

/-- DEC.S8 (40_signed_int R107). -/
def execDecS8 (s : State) : Outcome := signedDecode 0x01#8 8 s

/-- DEC.S16 (40_signed_int R108). -/
def execDecS16 (s : State) : Outcome := signedDecode 0x09#8 16 s

/-- DEC.S32 (40_signed_int R109). INFERRED (00_scope R4; log entry 20). -/
def execDecS32 (s : State) : Outcome := signedDecode 0x11#8 32 s

/-- DEC.S64 (40_signed_int R110). -/
def execDecS64 (s : State) : Outcome := signedDecode 0x19#8 64 s

end Sys2Proof.Machine
end

