-- ==== Sys2Proof/Machine/Float.lean ====
section
/-!
DEFINITION. The floating-point codec (42_float): the transforms R142 to R144, the NaN patterns R141,
and the four operations R149 to R152. The block does no floating-point arithmetic.
-/

namespace Sys2Proof.Machine

/-- The width of the fraction field (00_scope R16): 23 bits for binary32, 52 for binary64. The
exponent field is the rest below the sign bit. -/
def fractionBits (w : Nat) : Nat := if w = 64 then 52 else 23

/-- The width of the exponent field (00_scope R16): 8 bits for binary32, 11 for binary64. -/
def exponentBits (w : Nat) : Nat := w - 1 - fractionBits w

/-- The fraction field of a pattern (00_scope R16). -/
def fraction {w : Nat} (r : BitVec w) : BitVec (fractionBits w) :=
  r.extractLsb' 0 (fractionBits w)

/-- The biased exponent field of a pattern (00_scope R16). -/
def exponent {w : Nat} (r : BitVec w) : BitVec (exponentBits w) :=
  r.extractLsb' (fractionBits w) (exponentBits w)

/-- A NaN pattern (42_float R141): exponent field all ones, fraction field not zero. -/
def isNaN {w : Nat} (r : BitVec w) : Bool :=
  exponent r == BitVec.allOnes (exponentBits w) && fraction r != 0

/-- −0.0 becomes +0.0; no other pattern changes (42_float R142). -/
def canonZero {w : Nat} (r : BitVec w) : BitVec w := if r = signBit w then 0 else r

/-- `FENC_W` (42_float R143): complement a negative pattern, force the sign bit of any other. -/
def fenc {w : Nat} (r : BitVec w) : BitVec w := if r.msb then ~~~r else r ||| signBit w

/-- `FDEC_W` (42_float R144): complement a key with sign bit 0, clear the sign bit of any other. -/
def fdec {w : Nat} (e : BitVec w) : BitVec w := if e.msb then e &&& ~~~(signBit w) else ~~~e

/-- The body of a float encode after its validation (42_float R149, R150). -/
def floatEncode {w : Nat} (cmd : Cmd) (r : BitVec w) (s : State) : Outcome :=
  let e := fenc (canonZero r)
  if isNaN r then respondOpen cmd (fun x => .bytes (toBE x)) e s
  else respond (.bytes (toBE e)) s

/-- The body of a float decode after its validation (42_float R151, R152). -/
def floatDecode {w : Nat} (cmd : Cmd) (wrap : BitVec w → Result) (bs : List Byte)
    (s : State) : Outcome :=
  let r := fdec (BitVec.ofNat w (fromBE bs))
  if isNaN r then respondOpen cmd wrap r s
  else respond (wrap r) s

/-- ENC.F32 (42_float R149). -/
def execEncF32 (s : State) : Outcome :=
  afterCheck 0x14#8 (validateEncFloat32 s.operand) (fun r => floatEncode 0x14#8 r s) s

/-- ENC.F64 (42_float R150). -/
def execEncF64 (s : State) : Outcome :=
  afterCheck 0x1C#8 (validateEncFloat64 s.operand) (fun r => floatEncode 0x1C#8 r s) s

/-- DEC.F32 (42_float R151). -/
def execDecF32 (s : State) : Outcome :=
  afterCheck 0x15#8 (validateDec s.operand 32)
    (fun bs => floatDecode (w := 32) 0x15#8 .float32 bs s) s

/-- DEC.F64 (42_float R152). -/
def execDecF64 (s : State) : Outcome :=
  afterCheck 0x1D#8 (validateDec s.operand 64)
    (fun bs => floatDecode (w := 64) 0x1D#8 .float64 bs s) s

end Sys2Proof.Machine
end

