-- ==== Sys2Proof/Machine/Unsigned.lean ====
section
/-!
DEFINITION. The unsigned integer codec (41_unsigned_int): the transforms R120 and R121, and the
eight operations R122 to R129.
-/

namespace Sys2Proof.Machine

/-- `UENC_W` (41_unsigned_int R120): the value itself as a W-bit pattern. -/
def uenc (w : Nat) (v : Int) : BitVec w := BitVec.ofInt w v

/-- `UDEC_W` (41_unsigned_int R121): the pattern itself as a non-negative integer. -/
def udec {w : Nat} (e : BitVec w) : Int := (e.toNat : Int)

/-- The body of an unsigned encode (41_unsigned_int R122 to R125). -/
def unsignedEncode (cmd : Cmd) (w : Nat) (min max : Int) (s : State) : Outcome :=
  afterCheck cmd (validateEncInt s.operand min max)
    (fun v => respond (.bytes (toBE (uenc w v))) s) s

/-- The body of an unsigned decode (41_unsigned_int R126 to R129). -/
def unsignedDecode (cmd : Cmd) (w : Nat) (s : State) : Outcome :=
  afterCheck cmd (validateDec s.operand w)
    (fun bs => respond (.int (udec (BitVec.ofNat w (fromBE bs)))) s) s

/-- ENC.U8 (41_unsigned_int R122). -/
def execEncU8 (s : State) : Outcome := unsignedEncode 0x02#8 8 0 255 s

/-- ENC.U16 (41_unsigned_int R123). -/
def execEncU16 (s : State) : Outcome := unsignedEncode 0x0A#8 16 0 65535 s

/-- ENC.U32 (41_unsigned_int R124). INFERRED (00_scope R4; log entry 20). -/
def execEncU32 (s : State) : Outcome := unsignedEncode 0x12#8 32 0 4294967295 s

/-- ENC.U64 (41_unsigned_int R125). -/
def execEncU64 (s : State) : Outcome := unsignedEncode 0x1A#8 64 0 18446744073709551615 s

/-- DEC.U8 (41_unsigned_int R126). -/
def execDecU8 (s : State) : Outcome := unsignedDecode 0x03#8 8 s

/-- DEC.U16 (41_unsigned_int R127). -/
def execDecU16 (s : State) : Outcome := unsignedDecode 0x0B#8 16 s

/-- DEC.U32 (41_unsigned_int R128). INFERRED (00_scope R4; log entry 20). -/
def execDecU32 (s : State) : Outcome := unsignedDecode 0x13#8 32 s

/-- DEC.U64 (41_unsigned_int R129). -/
def execDecU64 (s : State) : Outcome := unsignedDecode 0x1B#8 64 s

end Sys2Proof.Machine
end

