-- ==== Sys2Proof/Machine/Dispatch.lean ====
section
/-!
DEFINITION. The dispatch from an instruction to its meaning: one arm per row of 30_encoding R63.
-/

namespace Sys2Proof.Machine

def exec (i : Instr) (s : State) : Host.Outcome State Fault Refusal :=
  match i with
  | .encS8 => Sys2Proof.Machine.execEncS8 s
  | .decS8 => Sys2Proof.Machine.execDecS8 s
  | .encU8 => Sys2Proof.Machine.execEncU8 s
  | .decU8 => Sys2Proof.Machine.execDecU8 s
  | .encS16 => Sys2Proof.Machine.execEncS16 s
  | .decS16 => Sys2Proof.Machine.execDecS16 s
  | .encU16 => Sys2Proof.Machine.execEncU16 s
  | .decU16 => Sys2Proof.Machine.execDecU16 s
  | .encS32 => Sys2Proof.Machine.execEncS32 s
  | .decS32 => Sys2Proof.Machine.execDecS32 s
  | .encU32 => Sys2Proof.Machine.execEncU32 s
  | .decU32 => Sys2Proof.Machine.execDecU32 s
  | .encF32 => Sys2Proof.Machine.execEncF32 s
  | .decF32 => Sys2Proof.Machine.execDecF32 s
  | .encS64 => Sys2Proof.Machine.execEncS64 s
  | .decS64 => Sys2Proof.Machine.execDecS64 s
  | .encU64 => Sys2Proof.Machine.execEncU64 s
  | .decU64 => Sys2Proof.Machine.execDecU64 s
  | .encF64 => Sys2Proof.Machine.execEncF64 s
  | .decF64 => Sys2Proof.Machine.execDecF64 s

end Sys2Proof.Machine
end

