-- ==== Sys2Proof/Machine/Cycle.lean ====
section
/-!
DEFINITION. One cycle of one channel: the request it accepts is decoded from its own command word
alone (20_memory R55), served by the datapath, and enters the channel's in-flight list.
-/

namespace Sys2Proof.Machine

/-- Serve the request on the datapath: a legal command runs its operation; an illegal one gets
ERR_ILLEGAL and its operand is not examined (60_exceptions R203). Command legality comes first
(60_exceptions R204). -/
def serve (s : State) : Outcome :=
  match Sys2Proof.decode s.dp.req.cmd with
  | .ok i => exec i s
  | .error _ => raise s.dp.req.cmd .illegal s

/-- The cycle of channel `k`, from the channel with this cycle's inputs and outputs on its request
side. -/
def runChannel (k : Nat) (c : Channel) (s : State) : Outcome :=
  if c.accepting then onNext (serve (s.route c.inp.req)) (fun t => t.endCycle k c)
  else .next (({ s with dp := Datapath.idle }).endCycle k c)

/-- A cycle of channel `k` with the inputs `inp`. -/
def cycle (k : Nat) (inp : ChanIn) (s : State) : Outcome :=
  match s.channels[k]? with
  | none => .fault .noSuchChannel
  | some c => runChannel k (c.drive inp) s

/-- A cycle of channel `k` driven by the program host (60_exceptions R217; log entry 10): it goes to
its next request once this one is accepted. -/
def programCycle (k : Nat) (s : State) : Outcome :=
  match s.channels[k]? with
  | none => .fault .noSuchChannel
  | some c =>
    let c' := c.drive c.programIn
    runChannel k (if c'.accepting then c'.advanceProgram else c') s

/-- The channel after this one, in turn. -/
def nextTurn (s : State) : Nat := (s.turn + 1) % s.channels.length

/-- The next event of the machine. Before the first reset after power-up only a reset has a step
(70_reset R233). While the script lasts it says what happens; after that the program host drives
the channels in turn. -/
def nextEvent (s : State) : Outcome :=
  match s.script with
  | .reset driven :: rest => .next (({ s with script := rest }).resetCycle driven)
  | .cycle k inp :: rest =>
    if s.live then cycle k inp { s with script := rest } else .fault .noStepBeforeReset
  | [] =>
    if s.live then programCycle s.turn { s with turn := nextTurn s } else .fault .noStepBeforeReset

/-- The request ports that present the command word `w` with every operand port at 0. -/
def commandPorts (w : Nat) : ReqPorts := { ReqPorts.zero with cmd := BitVec.ofNat 8 w }

/-- Channel 0 made ready to accept; a build has at least one channel (60_exceptions R214). -/
def readyFirst (cs : List Channel) : List Channel :=
  match cs with
  | [] => [Channel.reset.makeReady]
  | c :: rest => c.makeReady :: rest

/-- The state in which the next step is a cycle of channel 0 that presents the command word `w`. -/
def presentCommand (s : State) (w : Nat) : State :=
  { s with
    live := true, channels := readyFirst s.channels,
    script :=
      .cycle 0 { reqValid := true, req := commandPorts w, rspReady := true } :: s.script }

/-- The host loads one program per channel, the first channel first (70_reset R239). -/
def loadPrograms (s : State) (ps : List (List ReqPorts)) : State :=
  { s with channels := s.channels.mapIdx fun k c => { c with program := ps.getD k [] } }

/-- The end of a run (70_reset R239): every request of every program has been accepted and its
response delivered. The script must be empty too, so where scripted cycles are left the run ends only
after them, not at the first point where all is answered: a DESIGN CHOICE (log entry 10), because a
scripted cycle may still present a request. -/
def runEnded (s : State) : Bool :=
  s.script.isEmpty && s.channels.all fun c => c.program.isEmpty && c.inflight.isEmpty

end Sys2Proof.Machine
end

