-- ==== Sys2Proof/Machine/Step.lean ====
section
/-!
DEFINITION. One step of the machine: one clock cycle of one channel, or one reset cycle of the whole
block. The block fetches nothing (10_state R23); a "fetch word" is the command word of a request.
-/

namespace Sys2Proof.Machine

/-- One step. -/
def step (s : State) : Host.Outcome State Fault Refusal := nextEvent s

/-- `s` with a request of command word `w` on channel 0's ports in the next cycle, its operand ports
0, and channel 0 ready to accept it (log entries 10, 17). -/
def State.withFetchWord (s : State) (nbits w : Nat) : State :=
  presentCommand s (w % 2 ^ nbits)

end Sys2Proof.Machine
end

