-- ==== Sys2Proof/Machine/Reference.lean ====
section
/-!
DEFINITION. The block as the spec's abstract function: `Exec(cmd, operand) → Response` over the
mathematical values of 10_state R24 to R26, written for all widths at once in integer arithmetic from
the command's fields and from the rules R60, R61, R100, R101, R120, R121, R142 to R146 and R183. It
shares no transform, validator or decoder with the datapath, so that agreement between the two says
something. How a host value reaches the request ports is 10_state R28 and the duties of 60_exceptions
R217.
-/

namespace Sys2Proof.Machine.Ref

/-- An operand as the host has it (10_state R25): integers and byte sequences of any size. -/
inductive HostValue where
  | int (v : Int)
  | float32 (b : BitVec 32)
  | float64 (b : BitVec 64)
  | bytes (bs : List Byte)
  | other (lo : BitVec 2)
deriving DecidableEq, Repr

/-- The tag of a host value (10_state R25). -/
def HostValue.tag : HostValue → Tag
  | .int _ => .int
  | .float32 _ => .float32
  | .float64 _ => .float64
  | .bytes _ => .bytes
  | .other lo => .other lo

/-- The host presents an integer (10_state R27, R28): on `op_int` when it fits in 66 bits, otherwise
by the out-of-range flag and its sign. -/
abbrev IntOnPorts (v : Int) (p : ReqPorts) : Prop :=
  if -2 ^ 65 ≤ v ∧ v < 2 ^ 65 then p.opIntOor = false ∧ p.opInt = BitVec.ofInt 66 v
  else p.opIntOor = true ∧ p.opIntOorNeg = decide (v < 0)

/-- The host presents a byte sequence (10_state R27, R28): its count, saturated at 2^32 − 1, and for
a count of at most 8 its bytes right-aligned on `op_bytes`. -/
abbrev BytesOnPorts (bs : List Byte) (p : ReqPorts) : Prop :=
  p.opLen = lenPort bs.length ∧
  (bs.length ≤ 8 → p.opBytes.toNat % 256 ^ bs.length = fromBE bs)

/-- The ports `p` present the host value `v` (10_state R27, R28; 60_exceptions R217). Nothing is
said of ports that the tag does not use, or of bits above the value. -/
def PresentedOn (v : HostValue) (p : ReqPorts) : Prop :=
  p.opTag = tagCode v.tag ∧
  match v with
  | .int v => IntOnPorts v p
  | .float32 b => p.opBits.extractLsb' 0 32 = b
  | .float64 b => p.opBits = b
  | .bytes bs => BytesOnPorts bs p
  | .other _ => True

/-- A host that presents `cmd` and `v` with every unused port and bit 0. -/
def drive (cmd : Cmd) (v : HostValue) : ReqPorts :=
  let base := { ReqPorts.zero with cmd := cmd, opTag := tagCode v.tag }
  match v with
  | .int v =>
    if -2 ^ 65 ≤ v ∧ v < 2 ^ 65 then { base with opInt := BitVec.ofInt 66 v }
    else { base with opIntOor := true, opIntOorNeg := decide (v < 0) }
  | .float32 b => { base with opBits := b.setWidth 64 }
  | .float64 b => { base with opBits := b }
  | .bytes bs =>
    { base with
      opLen := lenPort bs.length,
      opBytes := if bs.length ≤ 8 then BitVec.ofNat 64 (fromBE bs) else 0 }
  | .other _ => base

/-! ### The command's fields as numbers (30_encoding R60, R61) -/

/-- RSVD, bits 7:5. -/
def rsvd (cmd : Cmd) : Nat := cmd.toNat / 32

/-- WCODE, bits 4:3. -/
def wcode (cmd : Cmd) : Nat := cmd.toNat / 8 % 4

/-- KIND, bits 2:1. -/
def kindField (cmd : Cmd) : Nat := cmd.toNat / 2 % 4

/-- DIR, bit 0. -/
def dirField (cmd : Cmd) : Nat := cmd.toNat % 2

/-- W = 8 · 2^WCODE. -/
def width (cmd : Cmd) : Nat := 8 * 2 ^ wcode cmd

/-- 30_encoding R61. -/
def legal (cmd : Cmd) : Bool :=
  rsvd cmd == 0 && kindField cmd != 3 && (kindField cmd != 2 || decide (2 ≤ wcode cmd))

/-! ### The transforms in integer arithmetic -/

/-- The key of a W-bit pattern: its base-256 digits, the most significant first (20_memory R41). -/
def key (w e : Nat) : List Byte :=
  (List.range (w / 8)).map fun i => BitVec.ofNat 8 (e / 256 ^ (w / 8 - 1 - i))

/-- The pattern of a key: Σ bs[i] · 256^(len−1−i) (20_memory R42). -/
def pattern : List Byte → Nat
  | [] => 0
  | b :: bs => b.toNat * 256 ^ bs.length + pattern bs

/-- The signed encode as the bias it is (40_signed_int R100): (v + 2^(W−1)) mod 2^W. -/
def signedKey (w : Nat) (v : Int) : Nat := ((v + 2 ^ (w - 1)) % 2 ^ w).toNat

/-- The signed decode as the bias it is (40_signed_int R101): e − 2^(W−1). -/
def signedValue (w e : Nat) : Int := (e : Int) - 2 ^ (w - 1)

/-- The float encode (42_float R142, R143) on the pattern as a number. -/
def floatKey (w r : Nat) : Nat :=
  if r = 2 ^ (w - 1) then 2 ^ (w - 1)
  else if 2 ^ (w - 1) ≤ r then 2 ^ w - 1 - r
  else r + 2 ^ (w - 1)

/-- The float decode (42_float R144) on the pattern as a number. -/
def floatValue (w e : Nat) : Nat := if 2 ^ (w - 1) ≤ e then e - 2 ^ (w - 1) else 2 ^ w - 1 - e

/-- The bounds of an integer codec (43_validation R171). -/
def bounds (kind w : Nat) : Int × Int :=
  if kind = 0 then (-2 ^ (w - 1), 2 ^ (w - 1) - 1) else (0, 2 ^ w - 1)

/-- The tag that a float codec's encode takes (43_validation R173). -/
def floatTag (w : Nat) : Tag := if w = 32 then .float32 else .float64

/-- A float result of the codec's width (42_float R151, R152). -/
def floatResult (w r : Nat) : Result :=
  if w = 32 then .float32 (BitVec.ofNat 32 r) else .float64 (BitVec.ofNat 64 r)

/-! ### Exec -/

/-- An encode of an integer codec. -/
def encodeInt (cmd : Cmd) (v : HostValue) : Response Int :=
  let w := width cmd
  let b := bounds (kindField cmd) w
  match v with
  | .int v =>
    if v < b.1 ∨ b.2 < v then .err cmd (.rangeValue v b.1 b.2)
    else .ok (.bytes (key w (if kindField cmd = 0 then signedKey w v else v.toNat)))
  | v => .err cmd (.type .int v.tag)

/-- An encode of a float codec, with NaN patterns going the built datapath's way (42_float R145,
MECHANICAL). -/
def encodeFloat (cmd : Cmd) (v : HostValue) : Response Int :=
  let w := width cmd
  match v with
  | .float32 b =>
    if w = 32 then .ok (.bytes (key w (floatKey w b.toNat)))
    else .err cmd (.type (floatTag w) .float32)
  | .float64 b =>
    if w = 64 then .ok (.bytes (key w (floatKey w b.toNat)))
    else .err cmd (.type (floatTag w) .float64)
  | v => .err cmd (.type (floatTag w) v.tag)

/-- A decode of any codec, with NaN patterns going the built datapath's way (42_float R146,
MECHANICAL). -/
def decodeKey (cmd : Cmd) (v : HostValue) : Response Int :=
  let w := width cmd
  match v with
  | .bytes bs =>
    if bs.length ≠ w / 8 then .err cmd (.rangeLength (w / 8) bs.length)
    else if kindField cmd = 0 then .ok (.int (signedValue w (pattern bs)))
    else if kindField cmd = 1 then .ok (.int (pattern bs))
    else .ok (floatResult w (floatValue w (pattern bs)))
  | v => .err cmd (.type .bytes v.tag)

/-- `Exec(cmd, operand)` (10_state R20), in the order ILLEGAL, TYPE, RANGE (60_exceptions R204). -/
def Exec (cmd : Cmd) (v : HostValue) : Response Int :=
  if !legal cmd then .err cmd .illegal
  else if dirField cmd = 1 then decodeKey cmd v
  else if kindField cmd = 2 then encodeFloat cmd v
  else encodeInt cmd v

/-! ### The transactions whose response NAN_POLICY decides -/

/-- The NaN patterns, as the ranges of 42_float R141. -/
def nanPattern (w r : Nat) : Bool :=
  if w = 32 then
    (decide (0x7F800001 ≤ r) && decide (r ≤ 0x7FFFFFFF)) ||
    (decide (0xFF800001 ≤ r) && decide (r ≤ 0xFFFFFFFF))
  else
    (decide (0x7FF0000000000001 ≤ r) && decide (r ≤ 0x7FFFFFFFFFFFFFFF)) ||
    (decide (0xFFF0000000000001 ≤ r) && decide (r ≤ 0xFFFFFFFFFFFFFFFF))

/-- The keys that decode to a NaN pattern, as the ranges of 42_float R156. -/
def nanKey (w e : Nat) : Bool :=
  if w = 32 then
    decide (e ≤ 0x007FFFFE) || (decide (0xFF800001 ≤ e) && decide (e ≤ 0xFFFFFFFF))
  else
    decide (e ≤ 0x000FFFFFFFFFFFFE) ||
    (decide (0xFFF0000000000001 ≤ e) && decide (e ≤ 0xFFFFFFFFFFFFFFFF))

/-- A legal float transaction on a NaN (42_float R145, R146): the right tag, and for a decode the
right length. -/
def nanCase (cmd : Cmd) (v : HostValue) : Bool :=
  legal cmd && kindField cmd == 2 &&
  match v with
  | .float32 b => dirField cmd == 0 && width cmd == 32 && nanPattern 32 b.toNat
  | .float64 b => dirField cmd == 0 && width cmd == 64 && nanPattern 64 b.toNat
  | .bytes bs => dirField cmd == 1 && bs.length == width cmd / 8 && nanKey (width cmd) (pattern bs)
  | _ => false

/-- What a response may be on a NaN under `NAN_POLICY` = DRAW (42_float R145, R146): a result of the
right shape, or any error that names the command. -/
def DrawAllows (cmd : Cmd) (r : BlockResponse) : Prop :=
  (∃ e, r = .err cmd e) ∨
  (dirField cmd = 0 ∧ ∃ bs, r = .ok (.bytes bs) ∧ bs.length = width cmd / 8) ∨
  (dirField cmd = 1 ∧ width cmd = 32 ∧ ∃ x, r = .ok (.float32 x)) ∨
  (dirField cmd = 1 ∧ width cmd = 64 ∧ ∃ x, r = .ok (.float64 x))

/-- The part of an offending integer that the ports can carry (10_state R30). -/
def portValue (v : Int) : PortInt :=
  if -2 ^ 65 ≤ v ∧ v < 2 ^ 65 then .exact v else .beyond (decide (v < 0))

/-- An abstract response as the block can report it (10_state R30). -/
def blockResponse : Response Int → BlockResponse
  | .ok r => .ok r
  | .err cmd (.type x a) => .err cmd (.type x a)
  | .err cmd (.rangeValue v lo hi) => .err cmd (.rangeValue (portValue v) lo hi)
  | .err cmd (.rangeLength x a) => .err cmd (.rangeLength x a)
  | .err cmd .illegal => .err cmd .illegal

/-- The block's response `r` to `cmd` and `v` is right: its ports are those of `Exec` (10_state R20,
R30), but for the NaN cases, where it is one of the responses that `NAN_POLICY` admits (42_float
R145, R146). -/
def Admits (cmd : Cmd) (v : HostValue) (r : BlockResponse) : Prop :=
  if nanCase cmd v then DrawAllows cmd r
  else responsePorts r = responsePorts (blockResponse (Exec cmd v))

end Sys2Proof.Machine.Ref
end

