-- ==== Sys2Proof/Machine/Asm.lean ====
section
/-!
DEFINITION. The notation for requests (30_encoding R70, R71) as data, and the request ports that a
line of it stands for. One line is one transaction: there are no pseudo-instructions and no operand
defaults (R71).
-/

namespace Sys2Proof.Machine.Asm

/-- The names allowed in `f32(…)` and `f64(…)`, and decimals there (30_encoding R70). A decimal is
±digits · 10^(−scale). -/
inductive FloatName where
  | posInf
  | negInf
  | negZero
  | max
  | lowest
  | decimal (neg : Bool) (digits scale : Nat)
deriving DecidableEq, Repr

/-- The operand forms of 30_encoding R70. -/
inductive AsmOperand where
  /-- a decimal or hex integer, optionally signed -/
  | int (v : Int)
  /-- `f32:0xHHHHHHHH` -/
  | f32Raw (b : BitVec 32)
  /-- `f64:0xHHHHHHHHHHHHHHHH` -/
  | f64Raw (b : BitVec 64)
  /-- `f32(…)` -/
  | f32 (x : FloatName)
  /-- `f64(…)` -/
  | f64 (x : FloatName)
  /-- `b'HH…'` -/
  | bytes (bs : List Byte)
  /-- `other`, sent with the code 100 (90 C8) -/
  | other
deriving DecidableEq, Repr

/-- What stands before the operand: a mnemonic, or `.RAW 0xNN` for any word, legal or not. -/
inductive Head where
  | op (i : Instr)
  | raw (w : Cmd)
deriving DecidableEq, Repr

/-- A request line (30_encoding R70). -/
structure Line where
  head : Head
  operand : AsmOperand
deriving DecidableEq, Repr

/-- The pattern of a non-negative decimal in a format with `f` fraction bits and bias-adjusted unit
2^(−u), largest biased exponent `m`: `none` unless a finite value of the format equals it. -/
def decimalPattern (f u m digits scale : Nat) : Option Nat :=
  if digits * 2 ^ u % 10 ^ scale = 0 then
    let n := digits * 2 ^ u / 10 ^ scale
    if n < 2 ^ f then some n
    else
      let t := Nat.log2 n - f
      if n % 2 ^ t = 0 ∧ t + 1 ≤ m then some ((t + 1) * 2 ^ f + (n / 2 ^ t - 2 ^ f)) else none
  else none

/-- The binary32 pattern of a name or decimal (30_encoding R70; 93 G2, G3). -/
def pattern32 : FloatName → Option (BitVec 32)
  | .posInf => some 0x7F800000#32
  | .negInf => some 0xFF800000#32
  | .negZero => some 0x80000000#32
  | .max => some 0x7F7FFFFF#32
  | .lowest => some 0xFF7FFFFF#32
  | .decimal neg d k =>
    (decimalPattern 23 149 254 d k).map fun n =>
      BitVec.ofNat 32 (if neg then n + 2 ^ 31 else n)

/-- The binary64 pattern of a name or decimal (30_encoding R70; 93 G2, G3). -/
def pattern64 : FloatName → Option (BitVec 64)
  | .posInf => some 0x7FF0000000000000#64
  | .negInf => some 0xFFF0000000000000#64
  | .negZero => some 0x8000000000000000#64
  | .max => some 0x7FEFFFFFFFFFFFFF#64
  | .lowest => some 0xFFEFFFFFFFFFFFFF#64
  | .decimal neg d k =>
    (decimalPattern 52 1074 2046 d k).map fun n =>
      BitVec.ofNat 64 (if neg then n + 2 ^ 63 else n)

/-- The operand a form denotes; `none` for a decimal that no pattern of the format equals (log
entry 18). -/
def hostValue : AsmOperand → Option Ref.HostValue
  | .int v => some (.int v)
  | .f32Raw b => some (.float32 b)
  | .f64Raw b => some (.float64 b)
  | .f32 x => (pattern32 x).map .float32
  | .f64 x => (pattern64 x).map .float64
  | .bytes bs => some (.bytes bs)
  | .other => some (.other 0b00#2)

/-- The command word of a line's head. -/
def headWord : Head → Cmd
  | .op i => Sys2Proof.encode i
  | .raw w => w

/-- The request ports of a line (30_encoding R70; 10_state R28). -/
def assemble (l : Line) : Option ReqPorts :=
  (hostValue l.operand).map fun v => Ref.drive (headWord l.head) v

/-- The mnemonics (30_encoding R63). -/
def mnemonic : Instr → String
  | .encS8  => "ENC.S8"
  | .decS8  => "DEC.S8"
  | .encU8  => "ENC.U8"
  | .decU8  => "DEC.U8"
  | .encS16 => "ENC.S16"
  | .decS16 => "DEC.S16"
  | .encU16 => "ENC.U16"
  | .decU16 => "DEC.U16"
  | .encS32 => "ENC.S32"
  | .decS32 => "DEC.S32"
  | .encU32 => "ENC.U32"
  | .decU32 => "DEC.U32"
  | .encF32 => "ENC.F32"
  | .decF32 => "DEC.F32"
  | .encS64 => "ENC.S64"
  | .decS64 => "DEC.S64"
  | .encU64 => "ENC.U64"
  | .decU64 => "DEC.U64"
  | .encF64 => "ENC.F64"
  | .decF64 => "DEC.F64"

end Sys2Proof.Machine.Asm
end

