-- ==== Sys2Proof/Safety.lean ====
section
/-!
DEFINITION. The terms that claims about the block use: the order of keys and of float values, what a
right response is, and the invariants of a channel and of the machine.
-/

namespace Sys2Proof

open Sys2Proof.Machine

/-! ### Orders -/

/-- `a <_lex b` (00_scope R15): byte by byte, unsigned, a proper initial part first. -/
def lexLt : List Byte → List Byte → Prop
  | [], [] => False
  | [], _ :: _ => True
  | _ :: _, [] => False
  | a :: as, b :: bs => a.toNat < b.toNat ∨ (a = b ∧ lexLt as bs)

/-- The magnitude of a float pattern in units of the format's smallest subnormal (00_scope R16):
fraction · 1 for a zero exponent field, otherwise (2^f + fraction) · 2^(exponent − 1). An infinity
comes out larger than every finite magnitude. -/
def ieeeMagnitude {w : Nat} (r : BitVec w) : Nat :=
  if (exponent r).toNat = 0 then (fraction r).toNat
  else (2 ^ fractionBits w + (fraction r).toNat) * 2 ^ ((exponent r).toNat - 1)

/-- The value of a non-NaN float pattern in those units, with its sign; both zeros are 0. -/
def ieeeValue {w : Nat} (r : BitVec w) : Int :=
  if r.msb then -(ieeeMagnitude r : Int) else ieeeMagnitude r

/-! ### Instructions seen from outside -/

/-- `i` answers the operand `op` with the result `r`, whatever else the state holds, and changes
nothing but the datapath's response. -/
def RespondsWith (i : Instr) (op : Operand) (r : Result) : Prop :=
  ∀ s : State, s.operand = op → exec i s = .next (s.answer (.ok r))

/-- `i` answers the operand `op` with the key `bs`. -/
def EncodesTo (i : Instr) (op : Operand) (bs : List Byte) : Prop := RespondsWith i op (.bytes bs)

/-- `i` answers the key `bs`, presented with its own count, with the result `r`. -/
def DecodesTo (i : Instr) (bs : List Byte) (r : Result) : Prop :=
  RespondsWith i (.bytes bs.length bs) r

/-- The operand of an integer that fits the port. -/
def intOp (v : Int) : Operand := .int (.exact v)

/-- The one legal operand tag of an operation (30_encoding R63, R67). -/
def requiredTag (i : Instr) : Tag :=
  match i.codec.dir, i.codec.kind, i.codec.width with
  | .decode, _, _ => .bytes
  | .encode, .float, .w64 => .float64
  | .encode, .float, _ => .float32
  | .encode, _, _ => .int

/-- The bounds of an integer codec (43_validation R171). -/
def codecBounds (c : Codec) : Int × Int :=
  match c.kind with
  | .unsigned => (0, 2 ^ c.width.bits - 1)
  | _ => (-2 ^ (c.width.bits - 1), 2 ^ (c.width.bits - 1) - 1)

/-- The transactions whose response `NAN_POLICY` decides (42_float R145, R146): a float encode of a
NaN pattern, and a float decode of a key of the right length that gives one. -/
def nanTransaction (i : Instr) (op : Operand) : Bool :=
  match i, op with
  | .encF32, .float32 r => isNaN r
  | .encF64, .float64 r => isNaN r
  | .decF32, .bytes len bs => len == 4 && isNaN (fdec (BitVec.ofNat 32 (fromBE bs)))
  | .decF64, .bytes len bs => len == 8 && isNaN (fdec (BitVec.ofNat 64 (fromBE bs)))
  | _, _ => false

/-- `i` raises ERR_TYPE, naming `cmd` and the tags, for every operand not of the required tag. -/
def RejectsOtherTags (i : Instr) (cmd : Cmd) (required : Tag) : Prop :=
  ∀ s : State, s.operand.tag ≠ required →
    exec i s = .next (s.answer (.err cmd (.type required s.operand.tag)))

/-- The response ports of a key result (the "Status written" of the encode rules). -/
def KeyPorts (w : Nat) (bs : List Byte) : Prop :=
  responsePorts (.ok (.bytes bs)) =
    { RspPorts.zero with
      rspStatus := 0b00#2, rspTag := 0b011#3, rspLen := BitVec.ofNat 32 (w / 8),
      rspBytes := BitVec.ofNat 64 (fromBE bs) }

/-- The whole rule of an integer encode (40_signed_int R103 to R106; 41_unsigned_int R122 to R125):
its word, its key for every value in bounds (`Pattern v e` says what the key's number e is), its
ports, RangeKind outside the bounds, beyond the port too, and TypeKind. -/
def IntEncodeRule (i : Instr) (cmd : Cmd) (w : Nat) (lo hi : Int)
    (Pattern : Int → Nat → Prop) : Prop :=
  Sys2Proof.decode cmd = .ok i ∧
  (∀ v, lo ≤ v → v ≤ hi →
    ∃ bs, bs.length = w / 8 ∧ Pattern v (fromBE bs) ∧ EncodesTo i (intOp v) bs ∧ KeyPorts w bs) ∧
  (∀ (s : State) v, s.operand = intOp v → v < lo ∨ hi < v →
    exec i s = .next (s.answer (.err cmd (.rangeValue (.exact v) lo hi)))) ∧
  (∀ (s : State) neg, s.operand = .int (.beyond neg) →
    exec i s = .next (s.answer (.err cmd (.rangeValue (.beyond neg) lo hi)))) ∧
  RejectsOtherTags i cmd .int

/-- `i` raises ERR_RANGE_LENGTH for every byte sequence whose count is not W/8. -/
def RejectsOtherLengths (i : Instr) (cmd : Cmd) (w : Nat) : Prop :=
  ∀ (s : State) len bs, s.operand = .bytes len bs → len ≠ w / 8 →
    exec i s = .next (s.answer (.err cmd (.rangeLength (w / 8) len)))

/-- The whole rule of an integer decode (40_signed_int R107 to R110; 41_unsigned_int R126 to R129). -/
def IntDecodeRule (i : Instr) (cmd : Cmd) (w : Nat) (Value : Nat → Int → Prop) : Prop :=
  Sys2Proof.decode cmd = .ok i ∧
  (∀ bs : List Byte, bs.length = w / 8 →
    ∃ v, Value (fromBE bs) v ∧ DecodesTo i bs (.int v) ∧
      responsePorts (.ok (.int v)) =
        { RspPorts.zero with
          rspStatus := 0b00#2, rspTag := 0b000#3, rspInt := BitVec.ofInt 66 v }) ∧
  RejectsOtherLengths i cmd w ∧ RejectsOtherTags i cmd .bytes

/-- The whole rule of a float encode (42_float R149, R150). For a NaN pattern the response is the one
that `NAN_POLICY` gives (R145), with a fresh draw. -/
def FloatEncodeRule (i : Instr) (cmd : Cmd) (w : Nat) (op : BitVec w → Operand)
    (tag : Tag) : Prop :=
  Sys2Proof.decode cmd = .ok i ∧
  (∀ r : BitVec w, isNaN r = false →
    ∃ bs, bs.length = w / 8 ∧ fromBE bs = Ref.floatKey w r.toNat ∧ EncodesTo i (op r) bs ∧
      KeyPorts w bs) ∧
  (∀ (s : State) (r : BitVec w), s.operand = op r → isNaN r = true →
    ∃ bs, bs.length = w / 8 ∧ fromBE bs = Ref.floatKey w r.toNat ∧
      exec i s = .next { s.answer
        (openResponse Config.nanPolicy cmd (fun x : BitVec w => .bytes (toBE x))
          (BitVec.ofNat w (fromBE bs)) (Config.nanDraw w s.free)) with free := s.free + 1 }) ∧
  RejectsOtherTags i cmd tag

/-- The whole rule of a float decode (42_float R151, R152), the NaN patterns as R146 has them. -/
def FloatDecodeRule (i : Instr) (cmd : Cmd) (w : Nat) (wrap : BitVec w → Result) : Prop :=
  Sys2Proof.decode cmd = .ok i ∧
  (∀ bs : List Byte, bs.length = w / 8 →
    isNaN (BitVec.ofNat w (Ref.floatValue w (fromBE bs))) = false →
    DecodesTo i bs (wrap (BitVec.ofNat w (Ref.floatValue w (fromBE bs))))) ∧
  (∀ (s : State) (bs : List Byte), s.operand = .bytes (w / 8) bs →
    isNaN (BitVec.ofNat w (Ref.floatValue w (fromBE bs))) = true →
    exec i s = .next { s.answer
      (openResponse Config.nanPolicy cmd wrap (BitVec.ofNat w (Ref.floatValue w (fromBE bs)))
        (Config.nanDraw w s.free)) with free := s.free + 1 }) ∧
  RejectsOtherLengths i cmd w ∧ RejectsOtherTags i cmd .bytes

/-- Encode and decode of an integer codec are inverse, on the values in bounds and on the keys of
W/8 bytes (40_signed_int R111; 41_unsigned_int R130). -/
def IntRoundTrip (enc dec : Instr) (w : Nat) (lo hi : Int) : Prop :=
  (∀ v, lo ≤ v → v ≤ hi →
    ∃ bs, bs.length = w / 8 ∧ EncodesTo enc (intOp v) bs ∧ DecodesTo dec bs (.int v)) ∧
  (∀ bs : List Byte, bs.length = w / 8 →
    ∃ v, (lo ≤ v ∧ v ≤ hi ∧ EncodesTo enc (intOp v) bs) ∧
      ∀ v', lo ≤ v' → v' ≤ hi → EncodesTo enc (intOp v') bs → v' = v)

/-- The keys of an integer codec sort as the values do, and differ when the values do (40_signed_int
R102, R112; 41_unsigned_int R131). -/
def IntOrderKept (enc : Instr) (lo hi : Int) : Prop :=
  ∀ a b : Int, lo ≤ a → a ≤ hi → lo ≤ b → b ≤ hi →
    ∃ ka kb, EncodesTo enc (intOp a) ka ∧ EncodesTo enc (intOp b) kb ∧
      (a < b ↔ lexLt ka kb) ∧ (a = b ↔ ka = kb)

/-! ### Right responses and the invariants -/

/-- `r` is a right response to the request on the ports `p`: whatever host value they present, it is
what `Exec` gives, or what `NAN_POLICY` admits (10_state R20, R21, R24). -/
def Answers (p : ReqPorts) (r : BlockResponse) : Prop :=
  ∀ v : Ref.HostValue, Ref.PresentedOn v p → Ref.Admits p.cmd v r

/-- What holds of a channel between cycles. -/
structure ChannelInv (c : Channel) : Prop where
  /-- every accepted request is either answered or in flight, in order (10_state R24, 20_memory R52) -/
  inOrder : c.accepted = c.delivered.map Prod.fst ++ c.inflight.map InFlight.req
  /-- the list's capacity (10_state R34) -/
  withinDepth : c.inflight.length ≤ Config.fifoDepth
  /-- no entry waits longer than LATENCY (70_reset R238) -/
  withinLatency : ∀ e ∈ c.inflight, e.wait ≤ Config.latency
  /-- an older entry never waits longer than a younger one -/
  aged : c.inflight.Pairwise fun a b => a.wait ≤ b.wait
  /-- the responses in flight are right -/
  pendingRight : ∀ e ∈ c.inflight, Answers e.req e.rsp
  /-- the responses delivered were right -/
  observedRight : ∀ p ∈ c.delivered, Answers p.1 p.2

/-- What holds of the machine between steps. -/
structure StateInv (s : State) : Prop where
  /-- the build's channels (60_exceptions R214) -/
  channelCount : s.channels.length = Config.channels
  /-- no transaction stays on the datapath (10_state R20) -/
  datapathIdle : s.dp = Datapath.idle
  /-- the turn is a channel's -/
  turnInRange : s.turn < s.channels.length
  channelsRight : ∀ c ∈ s.channels, ChannelInv c

/-! ### Cycles -/

/-- The next step of `s` is a cycle of channel `k`, now `c`, in which the host drives `inp`: a cycle of
the script, or one of the program host (log entry 10). -/
def CycleOf (s : State) (k : Nat) (c : Channel) (inp : ChanIn) : Prop :=
  s.live = true ∧ s.channels[k]? = some c ∧
  ((∃ rest, s.script = .cycle k inp :: rest) ∨
    (s.script = [] ∧ k = s.turn ∧ inp = c.programIn))

/-- `joined` is what enters the in-flight list of `c` in a cycle of `s` with the inputs `inp`: the
accepted request (10_state R27) with the response that serving it gives, to wait LATENCY cycles
(70_reset R238); nothing where no request is accepted. -/
def Joins (s : State) (c : Channel) (inp : ChanIn) (joined : List InFlight) : Prop :=
  if inp.reqValid && c.canAccept then
    ∃ u r, serve (s.route inp.req) = .next u ∧ u.dp.rsp = some r ∧
      joined = [{ req := inp.req, rsp := r, wait := Config.latency }]
  else joined = []

/-- Some number of steps leads from `s` to `t`, with no fault or refusal on the way. -/
def StepsTo (s t : State) : Prop := ∃ n : Nat, Host.Core.run Sys2Proof.core n s = .next t

end Sys2Proof
end

