-- ==== Sys2Proof/Certificates/Slice0/Obligations.lean ====
section
/-!
DEFINITION. The statements for the provers. Each docstring names the rule of the spec it rests on.
-/

open Sys2Proof Sys2Proof.Machine

/-! ### Command words -/

/-- 30_encoding R63, R68: decoding a well-formed instruction's command word gives it back, and every
instruction is well formed. -/
def Obligations.CommandWordsRoundTrip : Prop :=
  ∀ i : Instr, i.wf = true ∧ Sys2Proof.decode (Sys2Proof.encode i) = .ok i

/-- 30_encoding R62, R63: a word decodes to an operation only if it is that operation's own word. -/
def Obligations.DecodeGivesOnlyTheOwnWord : Prop :=
  ∀ (c : Cmd) (i : Instr), Sys2Proof.decode c = .ok i → c = Sys2Proof.encode i

/-- 30_encoding R60, R63: words written out from the fields decode to the operation they stand for,
one of each family and direction. -/
def Obligations.SampleWordsDecode : Prop :=
  Sys2Proof.decode (0b000#3 ++ 0b01#2 ++ 0b00#2 ++ 0b0#1) = .ok .encS16 ∧
  Sys2Proof.decode (0b000#3 ++ 0b11#2 ++ 0b00#2 ++ 0b1#1) = .ok .decS64 ∧
  Sys2Proof.decode (0b000#3 ++ 0b00#2 ++ 0b01#2 ++ 0b0#1) = .ok .encU8 ∧
  Sys2Proof.decode (0b000#3 ++ 0b10#2 ++ 0b01#2 ++ 0b1#1) = .ok .decU32 ∧
  Sys2Proof.decode (0b000#3 ++ 0b10#2 ++ 0b10#2 ++ 0b0#1) = .ok .encF32 ∧
  Sys2Proof.decode (0b000#3 ++ 0b11#2 ++ 0b10#2 ++ 0b1#1) = .ok .decF64

/-- 30_encoding R61: a word is legal exactly when RSVD = 000, KIND ≠ 11, and KIND = 10 implies
WCODE ∈ (10, 11); 20 words are legal; every other word gets ERR_ILLEGAL whatever the operand is. -/
def Obligations.LegalExactlyWhenFieldsAllow : Prop :=
  (∀ c : Cmd, (∃ i, Sys2Proof.decode c = .ok i) ↔
    c.extractLsb' 5 3 = 0b000#3 ∧ c.extractLsb' 1 2 ≠ 0b11#2 ∧
    (c.extractLsb' 1 2 = 0b10#2 → c.extractLsb' 3 2 = 0b10#2 ∨ c.extractLsb' 3 2 = 0b11#2)) ∧
  ((List.range 256).filter fun n => (decodeTableWord 8 n).isSome).length = 20 ∧
  (∀ s : State, (∀ i, Sys2Proof.decode s.dp.req.cmd ≠ .ok i) →
    serve s = .next (s.answer (.err s.dp.req.cmd .illegal)))

/-- 30_encoding R64: the three groups of illegal words are told apart by name, with 8, 4 and 224
words. -/
def Obligations.IllegalGroupsAreNamed : Prop :=
  (∀ c : Cmd, Sys2Proof.decode c = .error .reservedKind ↔
    c.extractLsb' 1 2 = 0b11#2 ∧ c.extractLsb' 5 3 = 0b000#3) ∧
  (∀ c : Cmd, Sys2Proof.decode c = .error .noSuchFloatWidth ↔
    c ∈ [0x04#8, 0x05#8, 0x0C#8, 0x0D#8]) ∧
  (∀ c : Cmd, Sys2Proof.decode c = .error .reservedBits ↔ 0x20 ≤ c.toNat)

/-- 30_encoding R65: the four named tags have their codes, and every other code is OTHER. -/
def Obligations.TagCodesAreTheTable : Prop :=
  tagCode .int = 0b000#3 ∧ tagCode .float32 = 0b001#3 ∧ tagCode .float64 = 0b010#3 ∧
  tagCode .bytes = 0b011#3 ∧
  (∀ c : BitVec 3, tagCode (tagOfCode c) = c) ∧
  (∀ c : BitVec 3, (∃ lo, tagOfCode c = .other lo) ↔ 4 ≤ c.toNat)

/-! ### Byte order -/

/-- 20_memory R41: `toBE_W(e)` has W/8 bytes, and byte i is e[W−1−8i : W−8−8i]. -/
def Obligations.SerialisationIsBigEndian : Prop :=
  ∀ w ∈ [8, 16, 32, 64], ∀ e : BitVec w,
    (toBE e).length = w / 8 ∧
    ∀ i, i < w / 8 → (toBE e)[i]? = some (BitVec.ofNat 8 (e.toNat / 2 ^ (w - 8 - 8 * i)))

/-- 20_memory R42: `BE(bs)` is Σ bs[i] · 256^(len−1−i); it inverts `toBE_W`, and `toBE_W` inverts it
on the sequences of W/8 bytes. -/
def Obligations.ParsingIsBigEndianAndInverts : Prop :=
  (∀ bs : List Byte, fromBE bs =
    ((List.range bs.length).map fun i => (bs.getD i 0).toNat * 256 ^ (bs.length - 1 - i)).sum) ∧
  ∀ w ∈ [8, 16, 32, 64],
    (∀ e : BitVec w, fromBE (toBE e) = e.toNat) ∧
    (∀ bs : List Byte, bs.length = w / 8 →
      fromBE bs < 2 ^ w ∧ toBE (BitVec.ofNat w (fromBE bs)) = bs)

/-- 00_scope R15: for keys of equal length, `a <_lex b` exactly when BE(a) < BE(b). -/
def Obligations.LexOrderIsNumericOrder : Prop :=
  ∀ a b : List Byte, a.length = b.length → (lexLt a b ↔ fromBE a < fromBE b)

/-! ### The signed integer codec -/

/-- 40_signed_int R103, R104, R106: the whole rules of ENC.S8, ENC.S16 and ENC.S64. The key's number
is (v mod 2^W) XOR 2^(W−1), which is v + 2^(W−1). -/
def Obligations.SignedEncodeRules : Prop :=
  let pat (w : Nat) (v : Int) (e : Nat) : Prop :=
    e = (v % 2 ^ w).toNat ^^^ 2 ^ (w - 1) ∧ (e : Int) = v + 2 ^ (w - 1)
  IntEncodeRule .encS8 0x00#8 8 (-128) 127 (pat 8) ∧
  IntEncodeRule .encS16 0x08#8 16 (-32768) 32767 (pat 16) ∧
  IntEncodeRule .encS64 0x18#8 64 (-2 ^ 63) (2 ^ 63 - 1) (pat 64)

/-- 40_signed_int R107, R108, R110: the whole rules of DEC.S8, DEC.S16 and DEC.S64. The value is
e − 2^(W−1). -/
def Obligations.SignedDecodeRules : Prop :=
  let val (w : Nat) (e : Nat) (v : Int) : Prop := v = (e : Int) - 2 ^ (w - 1)
  IntDecodeRule .decS8 0x01#8 8 (val 8) ∧ IntDecodeRule .decS16 0x09#8 16 (val 16) ∧
  IntDecodeRule .decS64 0x19#8 64 (val 64)

/-- 40_signed_int R100: on the validated domain the encode transform is (v mod 2^W) XOR 2^(W−1), is
(v + 2^(W−1)) mod 2^W, and is v + 2^(W−1) with no wrap. -/
def Obligations.SignedEncodeIsTheBias : Prop :=
  ∀ w ∈ [8, 16, 32, 64], ∀ v : Int, -2 ^ (w - 1) ≤ v → v ≤ 2 ^ (w - 1) - 1 →
    (senc w v).toNat = (v % 2 ^ w).toNat ^^^ 2 ^ (w - 1) ∧
    ((senc w v).toNat : Int) = (v + 2 ^ (w - 1)) % 2 ^ w ∧
    ((senc w v).toNat : Int) = v + 2 ^ (w - 1)

/-- 40_signed_int R101: the decode transform is sext_W(e XOR 2^(W−1)), is e − 2^(W−1), and lies in
the codec's bounds. -/
def Obligations.SignedDecodeIsTheBias : Prop :=
  ∀ w ∈ [8, 16, 32, 64], ∀ e : BitVec w,
    (sdec e = if 2 ^ (w - 1) ≤ e.toNat ^^^ 2 ^ (w - 1)
      then ((e.toNat ^^^ 2 ^ (w - 1) : Nat) : Int) - 2 ^ w
      else ((e.toNat ^^^ 2 ^ (w - 1) : Nat) : Int)) ∧
    sdec e = (e.toNat : Int) - 2 ^ (w - 1) ∧
    -2 ^ (w - 1) ≤ sdec e ∧ sdec e ≤ 2 ^ (w - 1) - 1

/-- 40_signed_int R102, R112: the keys of every signed codec sort as the values do, byte by byte, and
are equal exactly when the values are (this last part, R112, is the spec's own derivation); the
transform itself is strictly increasing. The part on ENC.S32 is INFERRED (00_scope R4; log entry 20). -/
def Obligations.SignedKeysKeepTheOrder : Prop :=
  (∀ w ∈ [8, 16, 32, 64], ∀ a b : Int, -2 ^ (w - 1) ≤ a → a ≤ 2 ^ (w - 1) - 1 →
    -2 ^ (w - 1) ≤ b → b ≤ 2 ^ (w - 1) - 1 → (a < b ↔ (senc w a).toNat < (senc w b).toNat)) ∧
  IntOrderKept .encS8 (-128) 127 ∧ IntOrderKept .encS16 (-32768) 32767 ∧
  IntOrderKept .encS32 (-2147483648) 2147483647 ∧
  IntOrderKept .encS64 (-2 ^ 63) (2 ^ 63 - 1)

/-- 40_signed_int R111: transforms and operations of the signed codecs are mutually inverse, and
every W/8-byte sequence is the key of exactly one value. The part on ENC.S32 and DEC.S32 (R105, R109)
is INFERRED (00_scope R4; log entry 20). -/
def Obligations.SignedCodecsAreBijections : Prop :=
  (∀ w ∈ [8, 16, 32, 64],
    (∀ v : Int, -2 ^ (w - 1) ≤ v → v ≤ 2 ^ (w - 1) - 1 → sdec (senc w v) = v) ∧
    (∀ e : BitVec w, senc w (sdec e) = e)) ∧
  IntRoundTrip .encS8 .decS8 8 (-128) 127 ∧ IntRoundTrip .encS16 .decS16 16 (-32768) 32767 ∧
  IntRoundTrip .encS32 .decS32 32 (-2147483648) 2147483647 ∧
  IntRoundTrip .encS64 .decS64 64 (-2 ^ 63) (2 ^ 63 - 1)

/-- 40_signed_int R113: the key ENC.SW gives v is the key ENC.UW gives v + 2^(W−1). The part on ENC.S32
and ENC.U32 is INFERRED (00_scope R4; log entry 20). -/
def Obligations.SignedKeyIsTheOffsetUnsignedKey : Prop :=
  let same (enc encU : Instr) (w : Nat) : Prop :=
    ∀ v : Int, -2 ^ (w - 1) ≤ v → v ≤ 2 ^ (w - 1) - 1 →
      ∃ bs, EncodesTo enc (intOp v) bs ∧ EncodesTo encU (intOp (v + 2 ^ (w - 1))) bs
  same .encS8 .encU8 8 ∧ same .encS16 .encU16 16 ∧ same .encS32 .encU32 32 ∧
  same .encS64 .encU64 64

/-! ### The unsigned integer codec -/

/-- 41_unsigned_int R122, R123, R125: the whole rules of ENC.U8, ENC.U16 and ENC.U64. The key's number
is the value. -/
def Obligations.UnsignedEncodeRules : Prop :=
  let pat (v : Int) (e : Nat) : Prop := (e : Int) = v
  IntEncodeRule .encU8 0x02#8 8 0 255 pat ∧ IntEncodeRule .encU16 0x0A#8 16 0 65535 pat ∧
  IntEncodeRule .encU64 0x1A#8 64 0 (2 ^ 64 - 1) pat

/-- 41_unsigned_int R126, R127, R129: the whole rules of DEC.U8, DEC.U16 and DEC.U64. -/
def Obligations.UnsignedDecodeRules : Prop :=
  let val (e : Nat) (v : Int) : Prop := v = e
  IntDecodeRule .decU8 0x03#8 8 val ∧ IntDecodeRule .decU16 0x0B#8 16 val ∧
  IntDecodeRule .decU64 0x1B#8 64 val

/-- 41_unsigned_int R130: the unsigned codecs are bijections between [0, 2^W − 1] and the keys. The part
on ENC.U32 and DEC.U32 is INFERRED (00_scope R4; log entry 20). -/
def Obligations.UnsignedCodecsAreBijections : Prop :=
  (∀ w ∈ [8, 16, 32, 64],
    (∀ v : Int, 0 ≤ v → v ≤ 2 ^ w - 1 → udec (uenc w v) = v) ∧
    (∀ e : BitVec w, uenc w (udec e) = e)) ∧
  IntRoundTrip .encU8 .decU8 8 0 255 ∧ IntRoundTrip .encU16 .decU16 16 0 65535 ∧
  IntRoundTrip .encU32 .decU32 32 0 4294967295 ∧
  IntRoundTrip .encU64 .decU64 64 0 (2 ^ 64 - 1)

/-- 41_unsigned_int R131: unsigned keys sort as the values do, and are equal exactly when they are. The
part on ENC.U32 is INFERRED (00_scope R4; log entry 20). -/
def Obligations.UnsignedKeysKeepTheOrder : Prop :=
  IntOrderKept .encU8 0 255 ∧ IntOrderKept .encU16 0 65535 ∧
  IntOrderKept .encU32 0 4294967295 ∧ IntOrderKept .encU64 0 (2 ^ 64 - 1)

/-- The whole rules of ENC.S32, DEC.S32, ENC.U32 and DEC.U32, which the spec marks INFERRED from the
W-generic transforms (00_scope R4; 40_signed_int R105, R109; 41_unsigned_int R124, R128; log entry
20). -/
def Obligations.InferredThirtyTwoBitRules : Prop :=
  IntEncodeRule .encS32 0x10#8 32 (-2147483648) 2147483647
    (fun v e => e = (v % 2 ^ 32).toNat ^^^ 2 ^ 31 ∧ (e : Int) = v + 2 ^ 31) ∧
  IntDecodeRule .decS32 0x11#8 32 (fun e v => v = (e : Int) - 2 ^ 31) ∧
  IntEncodeRule .encU32 0x12#8 32 0 4294967295 (fun v e => (e : Int) = v) ∧
  IntDecodeRule .decU32 0x13#8 32 (fun e v => v = e)

/-! ### The floating-point codec -/

/-- 42_float R149, R150: the whole rules of ENC.F32 and ENC.F64; the NaN case is R145's. What a NaN is
rests on the IEEE-754 layout that the spec supplies from general knowledge (log entry 19). -/
def Obligations.FloatEncodeRules : Prop :=
  FloatEncodeRule .encF32 0x14#8 32 .float32 .float32 ∧
  FloatEncodeRule .encF64 0x1C#8 64 .float64 .float64

/-- 42_float R151, R152: the whole rules of DEC.F32 and DEC.F64; the NaN case is R146's. What a NaN is
rests on the IEEE-754 layout that the spec supplies from general knowledge (log entry 19). -/
def Obligations.FloatDecodeRules : Prop :=
  FloatDecodeRule .decF32 0x15#8 32 .float32 ∧ FloatDecodeRule .decF64 0x1D#8 64 .float64

/-- 42_float R145, R146: MECHANICAL passes the pattern on; DRAW admits exactly every result of the
operation's shape and every error that names the command. -/
def Obligations.NanPolicyAdmitsExactlyTheDraws : Prop :=
  ∀ w ∈ [32, 64], ∀ (cmd : Cmd) (wrap : BitVec w → Result) (m : BitVec w),
    (∀ d, openResponse .mechanical cmd wrap m d = .ok (wrap m)) ∧
    ∀ r : BlockResponse, (∃ d, openResponse .draw cmd wrap m d = r) ↔
      ((∃ x, r = .ok (wrap x)) ∨ ∃ e, r = .err cmd e)

/-- 42_float R141: the NaN patterns are exactly the two ranges of each format (a layout that the spec
supplies from general knowledge: log entry 19). -/
def Obligations.NanPatternsAreTheRanges : Prop :=
  (∀ r : BitVec 32, isNaN r = true ↔
    (0x7F800001 ≤ r.toNat ∧ r.toNat ≤ 0x7FFFFFFF) ∨
    (0xFF800001 ≤ r.toNat ∧ r.toNat ≤ 0xFFFFFFFF)) ∧
  (∀ r : BitVec 64, isNaN r = true ↔
    (0x7FF0000000000001 ≤ r.toNat ∧ r.toNat ≤ 0x7FFFFFFFFFFFFFFF) ∨
    (0xFFF0000000000001 ≤ r.toNat ∧ r.toNat ≤ 0xFFFFFFFFFFFFFFFF))

/-- 42_float R143: a negative pattern is complemented, which always gives sign bit 0; any other gets
its sign bit forced to 1, which puts it above all complemented ones. -/
def Obligations.FloatEncodeTransform : Prop :=
  ∀ w ∈ [32, 64], ∀ r : BitVec w,
    (2 ^ (w - 1) ≤ r.toNat →
      (fenc r).toNat = 2 ^ w - 1 - r.toNat ∧ (fenc r).toNat < 2 ^ (w - 1)) ∧
    (r.toNat < 2 ^ (w - 1) →
      (fenc r).toNat = r.toNat ||| 2 ^ (w - 1) ∧ (fenc r).toNat = r.toNat + 2 ^ (w - 1))

/-- 42_float R144: a key with sign bit 0 is complemented, any other has its sign bit cleared. -/
def Obligations.FloatDecodeTransform : Prop :=
  ∀ w ∈ [32, 64], ∀ e : BitVec w,
    (e.toNat < 2 ^ (w - 1) → (fdec e).toNat = 2 ^ w - 1 - e.toNat) ∧
    (2 ^ (w - 1) ≤ e.toNat →
      fdec e = e &&& ~~~(BitVec.ofNat w (2 ^ (w - 1))) ∧
      (fdec e).toNat = e.toNat - 2 ^ (w - 1))

/-- 42_float R153: every non-NaN pattern but −0.0 comes back from its key; −0.0 comes back as +0.0
(NaN as in log entry 19). -/
def Obligations.FloatRoundTrip : Prop :=
  (∀ w ∈ [32, 64], ∀ r : BitVec w, fdec (fenc (canonZero r)) = canonZero r) ∧
  (∀ r : BitVec 32, isNaN r = false →
    ∃ bs, EncodesTo .encF32 (.float32 r) bs ∧
      DecodesTo .decF32 bs (.float32 (if r = 0x80000000#32 then 0 else r))) ∧
  (∀ r : BitVec 64, isNaN r = false →
    ∃ bs, EncodesTo .encF64 (.float64 r) bs ∧
      DecodesTo .decF64 bs (.float64 (if r = 0x8000000000000000#64 then 0 else r)))

/-- 42_float R154: the float keys sort as the IEEE-754 values do, and are equal exactly when the
values are, −0.0 and +0.0 being equal. The IEEE-754 values are those of log entry 19. -/
def Obligations.FloatKeysKeepTheOrder : Prop :=
  (∀ a b : BitVec 32, isNaN a = false → isNaN b = false →
    ∃ ka kb, EncodesTo .encF32 (.float32 a) ka ∧ EncodesTo .encF32 (.float32 b) kb ∧
      (ieeeValue a < ieeeValue b ↔ lexLt ka kb) ∧ (ieeeValue a = ieeeValue b ↔ ka = kb)) ∧
  (∀ a b : BitVec 64, isNaN a = false → isNaN b = false →
    ∃ ka kb, EncodesTo .encF64 (.float64 a) ka ∧ EncodesTo .encF64 (.float64 b) kb ∧
      (ieeeValue a < ieeeValue b ↔ lexLt ka kb) ∧ (ieeeValue a = ieeeValue b ↔ ka = kb))

/-- 42_float R155: the keys of the float encode over its domain, exactly; and on that domain equal
keys mean equal patterns, −0.0 counting as +0.0. The spec derives this rule itself (NaN as in log
entry 19). -/
def Obligations.FloatKeysAreExactlyTheImage : Prop :=
  (∀ bs : List Byte,
    (∃ r : BitVec 32, isNaN r = false ∧ EncodesTo .encF32 (.float32 r) bs) ↔
      bs.length = 4 ∧
      ((0x007FFFFF ≤ fromBE bs ∧ fromBE bs ≤ 0x7FFFFFFE) ∨
       (0x80000000 ≤ fromBE bs ∧ fromBE bs ≤ 0xFF800000))) ∧
  (∀ bs : List Byte,
    (∃ r : BitVec 64, isNaN r = false ∧ EncodesTo .encF64 (.float64 r) bs) ↔
      bs.length = 8 ∧
      ((0x000FFFFFFFFFFFFF ≤ fromBE bs ∧ fromBE bs ≤ 0x7FFFFFFFFFFFFFFE) ∨
       (0x8000000000000000 ≤ fromBE bs ∧ fromBE bs ≤ 0xFFF0000000000000))) ∧
  (∀ w ∈ [32, 64], ∀ a b : BitVec w,
    fenc (canonZero a) = fenc (canonZero b) → canonZero a = canonZero b)

/-- 42_float R156: the keys that decode to a NaN pattern, exactly; and on the built datapath's
transforms re-encoding a decoded key gives the key back, but for the one key of R147. -/
def Obligations.NanKeysAreTheRanges : Prop :=
  (∀ e : BitVec 32, isNaN (fdec e) = true ↔
    e.toNat ≤ 0x007FFFFE ∨ (0xFF800001 ≤ e.toNat ∧ e.toNat ≤ 0xFFFFFFFF)) ∧
  (∀ e : BitVec 64, isNaN (fdec e) = true ↔
    e.toNat ≤ 0x000FFFFFFFFFFFFE ∨ (0xFFF0000000000001 ≤ e.toNat ∧ e.toNat ≤ 0xFFFFFFFFFFFFFFFF)) ∧
  (∀ w ∈ [32, 64], ∀ e : BitVec w,
    fenc (canonZero (fdec e)) = e ↔ e.toNat ≠ 2 ^ (w - 1) - 1)

/-- 42_float R147: the key 0x7F…F, which no encode produces, decodes to −0.0, and encoding that gives
the key of +0.0 instead. -/
def Obligations.KeyOfNoValueDecodesToNegativeZero : Prop :=
  DecodesTo .decF32 (toBE 0x7FFFFFFF#32) (.float32 0x80000000#32) ∧
  EncodesTo .encF32 (.float32 0x80000000#32) (toBE 0x80000000#32) ∧
  DecodesTo .decF64 (toBE 0x7FFFFFFFFFFFFFFF#64) (.float64 0x8000000000000000#64) ∧
  EncodesTo .encF64 (.float64 0x8000000000000000#64) (toBE 0x8000000000000000#64)

/-! ### Errors -/

/-- 60_exceptions R204: ILLEGAL wins over TYPE, and TYPE over RANGE, whatever else is wrong; RANGE or
OK is what is left. -/
def Obligations.ChecksHaveOneOrder : Prop :=
  ∀ s : State,
    (∀ g, Sys2Proof.decode s.dp.req.cmd = .error g →
      serve s = .next (s.answer (.err s.dp.req.cmd .illegal))) ∧
    (∀ i, Sys2Proof.decode s.dp.req.cmd = .ok i → s.operand.tag ≠ requiredTag i →
      serve s = .next (s.answer (.err s.dp.req.cmd (.type (requiredTag i) s.operand.tag)))) ∧
    (∀ i, Sys2Proof.decode s.dp.req.cmd = .ok i → s.operand.tag = requiredTag i →
      nanTransaction i s.operand = false →
      ∃ r, serve s = .next (s.answer r) ∧ (responseStatus r = 0b00#2 ∨ responseStatus r = 0b10#2))

/-- 60_exceptions R201: outside the NaN cases, TypeKind is raised exactly when the operand's tag is
not the required one, and it records both tags. -/
def Obligations.TypeKindExactly : Prop :=
  ∀ (i : Instr) (s : State), nanTransaction i s.operand = false →
    ∀ cmd x a, exec i s = .next (s.answer (.err cmd (.type x a))) ↔
      s.operand.tag ≠ requiredTag i ∧ cmd = Sys2Proof.encode i ∧ x = requiredTag i ∧
      a = s.operand.tag

/-- 60_exceptions R202: outside the NaN cases, RangeKind is raised exactly for an integer encode of a
value out of bounds and for a decode of a wrong count, and it records value and bounds, or both
lengths. -/
def Obligations.RangeKindExactly : Prop :=
  ∀ (i : Instr) (s : State), nanTransaction i s.operand = false →
    (∀ cmd v lo hi, exec i s = .next (s.answer (.err cmd (.rangeValue v lo hi))) ↔
      requiredTag i = .int ∧ s.operand = .int v ∧ cmd = Sys2Proof.encode i ∧
      (lo, hi) = codecBounds i.codec ∧ ∀ n, v = .exact n → n < lo ∨ hi < n) ∧
    (∀ cmd x a, exec i s = .next (s.answer (.err cmd (.rangeLength x a))) ↔
      i.codec.dir = .decode ∧ (∃ bs, s.operand = .bytes a bs) ∧ cmd = Sys2Proof.encode i ∧
      x = i.codec.width.bytes ∧ a ≠ x)

/-- 43_validation R178, 20_memory R44: a decode never looks at the content of its key: every key of
W/8 bytes gives a result of the decode's own kind, but for the float NaN cases. DEC.S32 and DEC.U32
among them are INFERRED (00_scope R4; log entry 20). -/
def Obligations.EveryKeyOfTheWidthDecodes : Prop :=
  ∀ i : Instr, i.codec.dir = .decode → ∀ bs : List Byte, bs.length = i.codec.width.bytes →
    nanTransaction i (.bytes bs.length bs) = false →
    ∃ r, DecodesTo i bs r ∧
      (i.codec.kind ≠ .float → ∃ v, r = .int v) ∧
      (i.codec.kind = .float → (∃ b, r = .float32 b) ∨ ∃ b, r = .float64 b)

/-! ### The ports -/

/-- 10_state R28: whatever host value the ports present, the block reads its tag and as much of it as
the ports carry, and nothing of the other ports. -/
def Obligations.PortsAreReadAsPresented : Prop :=
  ∀ (v : Ref.HostValue) (p : ReqPorts), Ref.PresentedOn v p →
    portOperand p =
      match v with
      | .int n => .int (if -2 ^ 65 ≤ n ∧ n < 2 ^ 65 then .exact n else .beyond (decide (n < 0)))
      | .float32 b => .float32 b
      | .float64 b => .float64 b
      | .bytes bs =>
        if bs.length ≤ 8 then .bytes bs.length bs else .bytes (min bs.length (2 ^ 32 - 1)) []
      | .other lo => .other lo

/-- 30_encoding R70: the ports of a request line present the operand that the line denotes, with the
line's command word. -/
def Obligations.RequestLinesPresentTheirOperand : Prop :=
  ∀ (l : Asm.Line) (v : Ref.HostValue), Asm.hostValue l.operand = some v →
    ∃ p, Asm.assemble l = some p ∧ p.cmd = Asm.headWord l.head ∧ Ref.PresentedOn v p

/-- 10_state R30: the response ports of each kind of response; every port not named is 0. An offending
value is on `err_value` exactly when it fits in 66 bits. Only `err_expected_len` of an expected count
beyond 32 bits, for which R30 gives no value, is left out (log entry 24). -/
def Obligations.ResponsePortsAreTheTable : Prop :=
  (∀ v, responsePorts (.ok (.int v)) =
    { RspPorts.zero with rspStatus := 0, rspTag := tagCode .int, rspInt := BitVec.ofInt 66 v }) ∧
  (∀ b : BitVec 32, (responsePorts (.ok (.float32 b))).rspBits.toNat = b.toNat ∧
    { responsePorts (.ok (.float32 b)) with rspBits := 0 } =
      { RspPorts.zero with rspStatus := 0, rspTag := tagCode .float32 }) ∧
  (∀ b, responsePorts (.ok (.float64 b)) =
    { RspPorts.zero with rspStatus := 0, rspTag := tagCode .float64, rspBits := b }) ∧
  (∀ bs : List Byte, bs.length ≤ 8 → responsePorts (.ok (.bytes bs)) =
    { RspPorts.zero with
      rspStatus := 0, rspTag := tagCode .bytes, rspLen := BitVec.ofNat 32 bs.length,
      rspBytes := BitVec.ofNat 64 (fromBE bs) }) ∧
  (∀ c x a, responsePorts (.err c (.type x a)) =
    { RspPorts.zero with
      rspStatus := 1, rspTag := 7, errCmd := c, errExpectedTag := tagCode x,
      errActualTag := tagCode a }) ∧
  (∀ c v lo hi, -2 ^ 65 ≤ v → v ≤ 2 ^ 65 - 1 →
    responsePorts (.err c (.rangeValue (.exact v) lo hi)) =
    { RspPorts.zero with
      rspStatus := 2, rspTag := 7, errCmd := c, errLen := false, errValue := BitVec.ofInt 66 v,
      errMin := BitVec.ofInt 66 lo, errMax := BitVec.ofInt 66 hi }) ∧
  (∀ c v lo hi, v < -2 ^ 65 ∨ 2 ^ 65 - 1 < v →
    responsePorts (.err c (.rangeValue (.exact v) lo hi)) =
    { RspPorts.zero with
      rspStatus := 2, rspTag := 7, errCmd := c, errLen := false, errValueOor := true,
      errValueOorNeg := decide (v < 0), errMin := BitVec.ofInt 66 lo,
      errMax := BitVec.ofInt 66 hi }) ∧
  (∀ c neg lo hi, responsePorts (.err c (.rangeValue (.beyond neg) lo hi)) =
    { RspPorts.zero with
      rspStatus := 2, rspTag := 7, errCmd := c, errLen := false, errValueOor := true,
      errValueOorNeg := neg, errMin := BitVec.ofInt 66 lo, errMax := BitVec.ofInt 66 hi }) ∧
  (∀ c x a, x < 2 ^ 32 → responsePorts (.err c (.rangeLength x a)) =
    { RspPorts.zero with
      rspStatus := 2, rspTag := 7, errCmd := c, errLen := true, errExpectedLen := BitVec.ofNat 32 x,
      errActualLen := BitVec.ofNat 32 (min a (2 ^ 32 - 1)) }) ∧
  (∀ c x a, { responsePorts (.err c (.rangeLength x a)) with errExpectedLen := 0 } =
    { RspPorts.zero with
      rspStatus := 2, rspTag := 7, errCmd := c, errLen := true,
      errActualLen := BitVec.ofNat 32 (min a (2 ^ 32 - 1)) }) ∧
  (∀ c, responsePorts (.err c .illegal) =
    { RspPorts.zero with rspStatus := 3, rspTag := 7, errCmd := c })

/-! ### The datapath as a whole -/

/-- 20_memory R47, R48; 10_state R20 (the frame of all 20 operations): every operation answers a next
state; it gives the datapath one response and leaves the request, the channels, the host's script and
turn and the reset mark as they are. Only the NaN cases take a free value. -/
def Obligations.OperationsAnswerAndChangeNothingElse : Prop :=
  ∀ (i : Instr) (s : State), ∃ t r, exec i s = .next t ∧
    t = { s with dp := { req := s.dp.req, rsp := some r }, free := t.free } ∧
    t.free = (if nanTransaction i s.operand then s.free + 1 else s.free)

/-- 10_state R21: the same command and the same operand get the same response, in any two states; the
one exception is a NaN operand. -/
def Obligations.ResponsesDependOnTheRequestAlone : Prop :=
  ∀ s s' : State, s.dp.req.cmd = s'.dp.req.cmd → s.operand = s'.operand →
    (∀ i, Sys2Proof.decode s.dp.req.cmd = .ok i → nanTransaction i s.operand = false) →
    ∃ r, serve s = .next (s.answer r) ∧ serve s' = .next (s'.answer r)

/-- 43_validation R181: every error names the command of the operation that raised it. -/
def Obligations.ErrorsNameTheirCommand : Prop :=
  ∀ (i : Instr) (s t : State) (cmd : Cmd) (e : ErrorInfo PortInt),
    exec i s = .next t → t.dp.rsp = some (.err cmd e) → cmd = Sys2Proof.encode i

/-- 10_state R20, R24: for every command word, legal or not, and every host value that the
ports present, the datapath's response is the one that the spec's function `Exec`, written in integer
arithmetic, gives on the ports. In the NaN cases it is one that DRAW admits, whatever the policy
(FloatEncodeRules and FloatDecodeRules are exact there). The words of the four 32-bit integer
operations are INFERRED (00_scope R4; log entry 20). -/
def Obligations.DatapathRefinesExec : Prop :=
  ∀ (s : State) (v : Ref.HostValue), Ref.PresentedOn v s.dp.req →
    ∃ t r, serve s = .next t ∧ t.dp.rsp = some r ∧ Ref.Admits s.dp.req.cmd v r

/-! ### Cycles, channels and reset -/

/-- A cycle of channel `k` that presents a request while `req_ready` can be 1, and whose command word
decodes to `i`, is `exec i` at the state with that request on the datapath, after which the response
enters the channel's in-flight list and the cycle ends. -/
def Obligations.StepRunsTheDecodedInstruction : Prop :=
  ∀ (s : State) (k : Nat) (inp : ChanIn) (rest : List HostEvent) (c : Channel) (i : Instr),
    s.live = true → s.script = .cycle k inp :: rest → s.channels[k]? = some c →
    inp.reqValid = true → c.canAccept = true → Sys2Proof.decode inp.req.cmd = .ok i → i.wf = true →
    step s = onNext (exec i (({ s with script := rest }).route inp.req))
      (fun t => t.endCycle k (c.drive inp))

/-- The same for a cycle of the program host, whose request comes from the channel's program. -/
def Obligations.ProgramStepRunsTheDecodedInstruction : Prop :=
  ∀ (s : State) (p : ReqPorts) (ps : List ReqPorts) (c : Channel) (i : Instr),
    s.live = true → s.script = [] → s.channels[s.turn]? = some c → c.program = p :: ps →
    c.canAccept = true → Sys2Proof.decode p.cmd = .ok i → i.wf = true →
    step s = onNext (exec i (({ s with turn := nextTurn s }).route p))
      (fun t => t.endCycle s.turn
        { c.drive { reqValid := true, req := p, rspReady := true } with program := ps })

/-- 60_exceptions R203: an illegal command word is accepted and answered like any other request, with
ERR_ILLEGAL(cmd), and the machine goes on. -/
def Obligations.StepAnswersAnIllegalWord : Prop :=
  ∀ (s : State) (k : Nat) (inp : ChanIn) (rest : List HostEvent) (c : Channel) (g : DecodeError),
    s.live = true → s.script = .cycle k inp :: rest → s.channels[k]? = some c →
    inp.reqValid = true → c.canAccept = true → Sys2Proof.decode inp.req.cmd = .error g →
    step s = .next
      (((({ s with script := rest }).route inp.req).answer (.err inp.req.cmd .illegal)).endCycle k
        (c.drive inp)) ∧
    (responsePorts (.err inp.req.cmd .illegal)).rspStatus = 0b11#2 ∧
    (responsePorts (.err inp.req.cmd .illegal)).errCmd = inp.req.cmd

/-- A command word placed by `withFetchWord` is run by the next step, from any state: the step is the
cycle of channel 0, made ready and driven with that word, around `exec` (what `withFetchWord` sets is
the model's choice: log entry 17). -/
def Obligations.PresentedCommandRunsNext : Prop :=
  ∀ (s : State) (i : Instr), ∃ c t, (readyFirst s.channels)[0]? = some c ∧
    exec i (({ s with live := true, channels := readyFirst s.channels }).route
      (commandPorts (Sys2Proof.encode i).toNat)) = .next t ∧
    step (s.withFetchWord 8 (Sys2Proof.encode i).toNat) =
      .next (t.endCycle 0 (c.drive
        { reqValid := true, req := commandPorts (Sys2Proof.encode i).toNat, rspReady := true }))

/-- 60_exceptions R214, 20_memory R51: a cycle of one channel leaves every other channel as it was. -/
def Obligations.ChannelsDoNotTouchEachOther : Prop :=
  ∀ (s t : State) (j : Nat), step s = .next t →
    ((∃ k inp rest, s.script = .cycle k inp :: rest ∧ j ≠ k) ∨ (s.script = [] ∧ j ≠ s.turn)) →
    t.channels[j]? = s.channels[j]?

/-- 10_state R34: when the list is full, `req_ready` is 0 and nothing is accepted. -/
def Obligations.FullListIsNotReady : Prop :=
  ∀ (s : State) (k : Nat) (inp : ChanIn) (rest : List HostEvent) (c : Channel),
    s.live = true → s.script = .cycle k inp :: rest → s.channels[k]? = some c →
    Config.fifoDepth ≤ c.inflight.length →
    ∃ t d, step s = .next t ∧ t.channels[k]? = some d ∧ d.reqReady = false ∧
      d.accepted = c.accepted

/-- 10_state R24, R27, R35: a cycle without a request, the first one after reset, one within the delay
after reset, and one with a full list accept nothing: no entry joins the list, and the program host
keeps its request. In the last three `req_ready` is 0. How the delay is counted is the model's choice
(log entry 8). -/
def Obligations.NothingIsAcceptedOutsideAHandshake : Prop :=
  ∀ (s : State) (k : Nat) (c : Channel) (inp : ChanIn), CycleOf s k c inp →
    inp.reqValid = false ∨ c.fresh = true ∨ 0 < c.startup ∨ Config.fifoDepth ≤ c.inflight.length →
    ∃ t d, step s = .next t ∧ t.channels[k]? = some d ∧ d.accepted = c.accepted ∧
      d.program = c.program ∧
      d.inflight = (if d.rspValid && inp.rspReady then c.inflight.tail else c.inflight).map
        (fun e => { e with wait := e.wait - 1 }) ∧
      (c.fresh = true ∨ 0 < c.startup ∨ Config.fifoDepth ≤ c.inflight.length → d.reqReady = false)

/-- 10_state R24, R29, R30; 20_memory R52; 70_reset R238: what a cycle of a channel does with its
in-flight list. An accepted request joins it behind the others, with the response that serving it gives,
to wait LATENCY cycles. `rsp_valid` is 1 exactly when the oldest entry's wait is over, and the response
ports then carry that entry's response. The pair is delivered, and leaves the list, exactly when
`rsp_valid` and `rsp_ready` are both 1. Every other entry stays, with one cycle less to wait. How LATENCY
is counted, when a request is accepted and the order within the cycle are the model's (log entries 6, 7,
23). -/
def Obligations.ACycleServesTheOldestEntry : Prop :=
  ∀ (s : State) (k : Nat) (c : Channel) (inp : ChanIn), CycleOf s k c inp →
    ∃ t d joined, step s = .next t ∧ t.channels[k]? = some d ∧ Joins s c inp joined ∧
      d.accepted = c.accepted ++ joined.map InFlight.req ∧
      match c.inflight ++ joined with
      | [] => d.rspValid = false ∧ d.delivered = c.delivered ∧ d.inflight = []
      | e :: rest =>
        d.rspValid = decide (e.wait = 0) ∧
        (d.rspValid = true → d.rsp = responsePorts e.rsp) ∧
        (d.rspValid = true → inp.rspReady = true →
          d.delivered = c.delivered ++ [(e.req, e.rsp)] ∧
          d.inflight = rest.map (fun x => { x with wait := x.wait - 1 })) ∧
        (d.rspValid = false ∨ inp.rspReady = false →
          d.delivered = c.delivered ∧
          d.inflight = (e :: rest).map (fun x => { x with wait := x.wait - 1 }))

/-- 70_reset R237: a response that the host has not taken stands unchanged on the ports in the
channel's next cycle. -/
def Obligations.UntakenResponseIsHeld : Prop :=
  ∀ (s t u : State) (k : Nat) (a b : ChanIn) (rest : List HostEvent) (c : Channel),
    s.script = .cycle k a :: .cycle k b :: rest → step s = .next t → step t = .next u →
    t.channels[k]? = some c → c.rspValid = true → a.rspReady = false →
    ∃ d, u.channels[k]? = some d ∧ d.rspValid = true ∧ d.rsp = c.rsp

/-- 70_reset R230, R234; 10_state R35: a reset cycle drives every output to 0, empties every in-flight
list, accepts nothing the host presents, and makes the block live. -/
def Obligations.ResetCycleDiscardsEverything : Prop :=
  ∀ (s : State) (driven : List ChanIn) (rest : List HostEvent), s.script = .reset driven :: rest →
    ∃ t, step s = .next t ∧ t.live = true ∧ t.script = rest ∧
      t.channels.length = s.channels.length ∧
      ∀ c ∈ t.channels, c.inflight = [] ∧ c.accepted = [] ∧ c.reqReady = false ∧
        c.rspValid = false ∧ c.rsp = RspPorts.zero

/-- 10_state R35: right after reset there are CHANNELS channels, with all outputs 0 and empty lists,
and the datapath is idle. -/
def Obligations.ResetLeavesOutputsZero : Prop :=
  State.reset.live = true ∧ State.reset.channels.length = Config.channels ∧
  State.reset.dp = Datapath.idle ∧
  ∀ c ∈ State.reset.channels, c.inflight = [] ∧ c.reqReady = false ∧ c.rspValid = false ∧
    c.rsp = RspPorts.zero ∧ c.delivered = []

/-- 10_state R35: a reset cycle starts the delay anew on every channel; a channel's first cycle after it
has all outputs 0; each later cycle takes one off the delay, and `req_ready` is 1 exactly when the delay
is over and the list has room. So after reset, while the host presents nothing on channel 0, `req_ready`
is 0 in the first cycle and in READY_DELAY more, and 1 in every cycle after that. The counting is the
model's choice (log entry 8), and so is that `req_ready` is 1 in EVERY cycle with room (log entry 7, not
R35). -/
def Obligations.ReadyAfterTheDelay : Prop :=
  (∀ (s t : State) (driven : List ChanIn) (rest : List HostEvent),
    s.script = .reset driven :: rest → step s = .next t →
    ∀ c ∈ t.channels, c.fresh = true ∧ c.startup = Config.readyDelay) ∧
  (∀ (s : State) (k : Nat) (c : Channel) (inp : ChanIn), CycleOf s k c inp →
    ∃ t d, step s = .next t ∧ t.channels[k]? = some d ∧ d.fresh = false ∧
      d.startup = (if c.fresh then c.startup else c.startup - 1) ∧
      d.reqReady = decide
        (c.fresh = false ∧ c.startup = 0 ∧ c.inflight.length < Config.fifoDepth) ∧
      (c.fresh = true → c.inflight = [] → d.rspValid = false ∧ d.rsp = RspPorts.zero)) ∧
  ∀ (n : Nat) (inp : ChanIn), inp.reqValid = false →
    ∃ t c, Host.Core.run Sys2Proof.core (n + 1)
        { State.reset with script := List.replicate (n + 1) (.cycle 0 inp) } = .next t ∧
      t.channels[0]? = some c ∧ c.reqReady = decide (Config.readyDelay < n)

/-- 70_reset R233: before the first reset after power-up the model gives the block no step but a
reset. -/
def Obligations.NoStepBeforeTheFirstReset : Prop :=
  ∀ s : State, s.live = false → (∀ d rest, s.script ≠ .reset d :: rest) →
    step s = .fault .noStepBeforeReset

/-! ### Invariants and runs -/

/-- The invariant holds right after reset. -/
def Obligations.ResetMeetsTheInvariant : Prop := StateInv State.reset

/-- Every step keeps the invariant: on every channel each accepted request has exactly one response,
in order, delivered or in flight; every response is right; the list stays within FIFO_DEPTH; no entry
waits longer than LATENCY; and nothing stays on the datapath (10_state R20, R21, R24, R34; 20_memory
R52; 70_reset R238). -/
def Obligations.EveryStepKeepsTheInvariant : Prop :=
  ∀ s t : State, StateInv s → step s = .next t → StateInv t

/-- 60_exceptions R206: once reset, the machine always has a next step, whatever the host drives on
the build's channels. -/
def Obligations.TheBlockNeverStops : Prop :=
  ∀ s : State, StateInv s → s.live = true →
    (∀ k inp rest, s.script = .cycle k inp :: rest → k < s.channels.length) →
    ∃ t, step s = .next t ∧ t.live = true

/-- 70_reset R238, R239; 60_exceptions R217: with the program host draining responses, every run ends:
every request of every program is accepted, in order, and every accepted request is delivered with a
right response. The program host is the model's choice (log entry 10), and that each request is accepted
in the end rests on `req_ready` being 1 whenever there is room, the model's choice too (log entry 7,
unsafe for liveness). -/
def Obligations.EveryRunEndsFullyAnswered : Prop :=
  ∀ s : State, StateInv s → s.live = true → s.script = [] →
    ∃ t, StepsTo s t ∧ runEnded t = true ∧ StateInv t ∧
      ∀ (k : Nat) (c : Channel), s.channels[k]? = some c →
        ∃ d, t.channels[k]? = some d ∧ d.accepted = c.accepted ++ c.program ∧
          d.delivered.map Prod.fst = d.accepted
end

