-- ==== Sys2Proof/Laws/Bytes.lean ====
section
/-!
SUPPORT. The number of a byte sequence, byte by byte (20_memory R42), and the length of a key.
-/

namespace Sys2Proof.Machine

@[simp] theorem fromBE_nil : fromBE [] = 0 := rfl

/-- One more byte at the end multiplies by 256 and adds it. -/
theorem fromBE_snoc (bs : List Byte) (b : Byte) : fromBE (bs ++ [b]) = 256 * fromBE bs + b.toNat := by
  simp [fromBE]

/-- One more byte at the front counts with the weight of its place. -/
theorem fromBE_cons (b : Byte) (bs : List Byte) :
    fromBE (b :: bs) = b.toNat * 256 ^ bs.length + fromBE bs := by
  have aux : ∀ (l : List Byte) (n : Nat),
      l.foldl (fun acc b => 256 * acc + b.toNat) n = n * 256 ^ l.length + fromBE l := by
    intro l
    induction l with
    | nil => intro n; simp [fromBE]
    | cons x xs ih =>
      intro n
      have h0 := ih (256 * n + x.toNat)
      have h1 := ih x.toNat
      simp only [fromBE, List.foldl_cons, List.length_cons, Nat.mul_zero, Nat.zero_add] at h0 h1 ⊢
      rw [h0, h1, pow_succ]
      ring
  simpa [fromBE] using aux bs b.toNat

/-- The number of a sequence of n bytes is below 256^n. -/
theorem fromBE_lt (bs : List Byte) : fromBE bs < 256 ^ bs.length := by
  induction bs with
  | nil => simp
  | cons b bs ih =>
    rw [fromBE_cons, List.length_cons, pow_succ]
    have hb : b.toNat ≤ 255 := by have := b.isLt; omega
    have := Nat.mul_le_mul_right (256 ^ bs.length) hb
    omega

/-- A key has W/8 bytes (20_memory R41, R46). -/
@[simp] theorem toBE_length {w : Nat} (e : BitVec w) : (toBE e).length = w / 8 := by
  simp [toBE]

end Sys2Proof.Machine
end

