-- ==== Sys2Proof/Laws/State.lean ====
section
/-!
SUPPORT. One lemma per field per update of the state and of a channel, so that no later proof unfolds
a record update.
-/

namespace Sys2Proof.Machine

variable (s : State) (c : Channel)

/-! ### `State.answer` -/

@[simp] theorem State.answer_live (r : BlockResponse) : (s.answer r).live = s.live := rfl
@[simp] theorem State.answer_channels (r : BlockResponse) : (s.answer r).channels = s.channels := rfl
@[simp] theorem State.answer_req (r : BlockResponse) : (s.answer r).dp.req = s.dp.req := rfl
@[simp] theorem State.answer_rsp (r : BlockResponse) : (s.answer r).dp.rsp = some r := rfl
@[simp] theorem State.answer_script (r : BlockResponse) : (s.answer r).script = s.script := rfl
@[simp] theorem State.answer_turn (r : BlockResponse) : (s.answer r).turn = s.turn := rfl
@[simp] theorem State.answer_free (r : BlockResponse) : (s.answer r).free = s.free := rfl
@[simp] theorem State.answer_operand (r : BlockResponse) : (s.answer r).operand = s.operand := rfl

/-- Two answers to one request are equal only if the responses are. -/
@[simp] theorem State.answer_inj (r r' : BlockResponse) : s.answer r = s.answer r' ↔ r = r' := by
  constructor
  · intro h
    have h' := congrArg (fun t : State => t.dp.rsp) h
    simpa using h'
  · rintro rfl
    rfl

/-! ### `State.route` -/

@[simp] theorem State.route_live (p : ReqPorts) : (s.route p).live = s.live := rfl
@[simp] theorem State.route_channels (p : ReqPorts) : (s.route p).channels = s.channels := rfl
@[simp] theorem State.route_req (p : ReqPorts) : (s.route p).dp.req = p := rfl
@[simp] theorem State.route_rsp (p : ReqPorts) : (s.route p).dp.rsp = none := rfl
@[simp] theorem State.route_script (p : ReqPorts) : (s.route p).script = s.script := rfl
@[simp] theorem State.route_turn (p : ReqPorts) : (s.route p).turn = s.turn := rfl
@[simp] theorem State.route_free (p : ReqPorts) : (s.route p).free = s.free := rfl
@[simp] theorem State.route_operand (p : ReqPorts) : (s.route p).operand = portOperand p := rfl

/-! ### `State.endCycle` -/

@[simp] theorem State.endCycle_live (k : Nat) : (s.endCycle k c).live = s.live := rfl
@[simp] theorem State.endCycle_dp (k : Nat) : (s.endCycle k c).dp = Datapath.idle := rfl
@[simp] theorem State.endCycle_script (k : Nat) : (s.endCycle k c).script = s.script := rfl
@[simp] theorem State.endCycle_turn (k : Nat) : (s.endCycle k c).turn = s.turn := rfl
@[simp] theorem State.endCycle_free (k : Nat) : (s.endCycle k c).free = s.free + 1 := rfl
theorem State.endCycle_channels (k : Nat) :
    (s.endCycle k c).channels = s.channels.set k ((c.take s.dp).finish s.free) := rfl
@[simp] theorem State.endCycle_length (k : Nat) :
    (s.endCycle k c).channels.length = s.channels.length := by
  simp [State.endCycle_channels]

/-- The cycle's own channel afterwards. -/
theorem State.endCycle_same (k : Nat) (h : k < s.channels.length) :
    (s.endCycle k c).channels[k]? = some ((c.take s.dp).finish s.free) := by
  simp [State.endCycle_channels, h]

/-- Every other channel afterwards. -/
theorem State.endCycle_other (k j : Nat) (h : j ≠ k) :
    (s.endCycle k c).channels[j]? = s.channels[j]? := by
  simp [State.endCycle_channels, List.getElem?_set_ne h.symm]

/-! ### `State.resetCycle` -/

@[simp] theorem State.resetCycle_live (d : List ChanIn) : (s.resetCycle d).live = true := rfl
@[simp] theorem State.resetCycle_dp (d : List ChanIn) : (s.resetCycle d).dp = Datapath.idle := rfl
@[simp] theorem State.resetCycle_script (d : List ChanIn) : (s.resetCycle d).script = s.script := rfl
@[simp] theorem State.resetCycle_turn (d : List ChanIn) : (s.resetCycle d).turn = s.turn := rfl
@[simp] theorem State.resetCycle_free (d : List ChanIn) : (s.resetCycle d).free = s.free := rfl
@[simp] theorem State.resetCycle_length (d : List ChanIn) :
    (s.resetCycle d).channels.length = s.channels.length := by
  simp [State.resetCycle]

/-! ### `Channel.drive` -/

@[simp] theorem Channel.drive_inp (i : ChanIn) : (c.drive i).inp = i := rfl
@[simp] theorem Channel.drive_reqReady (i : ChanIn) : (c.drive i).reqReady = c.canAccept := rfl
@[simp] theorem Channel.drive_inflight (i : ChanIn) : (c.drive i).inflight = c.inflight := rfl
@[simp] theorem Channel.drive_fresh (i : ChanIn) : (c.drive i).fresh = c.fresh := rfl
@[simp] theorem Channel.drive_startup (i : ChanIn) : (c.drive i).startup = c.startup := rfl
@[simp] theorem Channel.drive_program (i : ChanIn) : (c.drive i).program = c.program := rfl
@[simp] theorem Channel.drive_accepted (i : ChanIn) : (c.drive i).accepted = c.accepted := rfl
@[simp] theorem Channel.drive_delivered (i : ChanIn) : (c.drive i).delivered = c.delivered := rfl
@[simp] theorem Channel.drive_accepting (i : ChanIn) :
    (c.drive i).accepting = (i.reqValid && c.canAccept) := rfl

/-! ### `Channel.push`, `Channel.take` and `Channel.advanceProgram` -/

@[simp] theorem Channel.push_inp (p : ReqPorts) (r : BlockResponse) : (c.push p r).inp = c.inp := rfl
@[simp] theorem Channel.push_reqReady (p : ReqPorts) (r : BlockResponse) :
    (c.push p r).reqReady = c.reqReady := rfl
@[simp] theorem Channel.push_inflight (p : ReqPorts) (r : BlockResponse) :
    (c.push p r).inflight = c.inflight ++ [{ req := p, rsp := r, wait := Config.latency }] := rfl
@[simp] theorem Channel.push_fresh (p : ReqPorts) (r : BlockResponse) :
    (c.push p r).fresh = c.fresh := rfl
@[simp] theorem Channel.push_startup (p : ReqPorts) (r : BlockResponse) :
    (c.push p r).startup = c.startup := rfl
@[simp] theorem Channel.push_program (p : ReqPorts) (r : BlockResponse) :
    (c.push p r).program = c.program := rfl
@[simp] theorem Channel.push_accepted (p : ReqPorts) (r : BlockResponse) :
    (c.push p r).accepted = c.accepted ++ [p] := rfl
@[simp] theorem Channel.push_delivered (p : ReqPorts) (r : BlockResponse) :
    (c.push p r).delivered = c.delivered := rfl

@[simp] theorem Channel.take_idle : c.take Datapath.idle = c := rfl
@[simp] theorem Channel.take_none (p : ReqPorts) : c.take { req := p, rsp := none } = c := rfl
@[simp] theorem Channel.take_some (p : ReqPorts) (r : BlockResponse) :
    c.take { req := p, rsp := some r } = c.push p r := rfl

@[simp] theorem Channel.advanceProgram_program : c.advanceProgram.program = c.program.tail := rfl
@[simp] theorem Channel.advanceProgram_inp : c.advanceProgram.inp = c.inp := rfl
@[simp] theorem Channel.advanceProgram_reqReady : c.advanceProgram.reqReady = c.reqReady := rfl
@[simp] theorem Channel.advanceProgram_inflight : c.advanceProgram.inflight = c.inflight := rfl
@[simp] theorem Channel.advanceProgram_accepted : c.advanceProgram.accepted = c.accepted := rfl
@[simp] theorem Channel.advanceProgram_delivered : c.advanceProgram.delivered = c.delivered := rfl
@[simp] theorem Channel.advanceProgram_accepting : c.advanceProgram.accepting = c.accepting := rfl
@[simp] theorem Channel.advanceProgram_fresh : c.advanceProgram.fresh = c.fresh := rfl
@[simp] theorem Channel.advanceProgram_startup : c.advanceProgram.startup = c.startup := rfl

/-! ### `Channel.finish` -/

variable (n : Nat)

@[simp] theorem Channel.finish_inp : (c.finish n).inp = c.inp := rfl
@[simp] theorem Channel.finish_reqReady : (c.finish n).reqReady = c.reqReady := rfl
@[simp] theorem Channel.finish_rspValid : (c.finish n).rspValid = c.presenting := rfl
@[simp] theorem Channel.finish_rsp : (c.finish n).rsp = c.portsNow n := rfl
@[simp] theorem Channel.finish_fresh : (c.finish n).fresh = false := rfl
@[simp] theorem Channel.finish_startup :
    (c.finish n).startup = if c.fresh then c.startup else c.startup - 1 := rfl
@[simp] theorem Channel.finish_program : (c.finish n).program = c.program := rfl
@[simp] theorem Channel.finish_accepted : (c.finish n).accepted = c.accepted := rfl

/-- A cycle delivers when the oldest response is presented and the host is ready for it. -/
theorem Channel.finish_delivered :
    (c.finish n).delivered =
      if c.presenting && c.inp.rspReady then c.delivered ++ c.oldest else c.delivered := rfl

/-- The list after a cycle: less the delivered entry, every other entry one cycle older. -/
theorem Channel.finish_inflight :
    (c.finish n).inflight =
      (if c.presenting && c.inp.rspReady then c.inflight.tail else c.inflight).map
        InFlight.tick := rfl

/-- In a cycle without delivery every entry stays, one cycle older. -/
theorem Channel.finish_inflight_held (h : (c.presenting && c.inp.rspReady) = false) :
    (c.finish n).inflight = c.inflight.map InFlight.tick := by
  rw [Channel.finish_inflight, h]
  rfl

theorem Channel.finish_delivered_held (h : (c.presenting && c.inp.rspReady) = false) :
    (c.finish n).delivered = c.delivered := by
  rw [Channel.finish_delivered, h]
  rfl

/-- In a cycle with delivery the oldest entry leaves the list for the record. -/
theorem Channel.finish_inflight_taken (h : (c.presenting && c.inp.rspReady) = true) :
    (c.finish n).inflight = c.inflight.tail.map InFlight.tick := by
  rw [Channel.finish_inflight, h]
  rfl

theorem Channel.finish_delivered_taken (h : (c.presenting && c.inp.rspReady) = true) :
    (c.finish n).delivered = c.delivered ++ c.oldest := by
  rw [Channel.finish_delivered, h]
  rfl

/-- A presented response is the oldest entry's, whose wait is over. -/
theorem Channel.presenting_cons {e : InFlight} {rest : List InFlight} (h : c.inflight = e :: rest) :
    c.presenting = (e.wait == 0) ∧ c.oldest = [(e.req, e.rsp)] := by
  simp [Channel.presenting, Channel.oldest, h]

/-- With an empty list nothing is presented. -/
theorem Channel.presenting_nil (h : c.inflight = []) :
    c.presenting = false ∧ c.oldest = [] := by
  simp [Channel.presenting, Channel.oldest, h]

/-! ### `InFlight.tick` and `Channel.resetCycle` -/

@[simp] theorem InFlight.tick_req (e : InFlight) : e.tick.req = e.req := rfl
@[simp] theorem InFlight.tick_rsp (e : InFlight) : e.tick.rsp = e.rsp := rfl
@[simp] theorem InFlight.tick_wait (e : InFlight) : e.tick.wait = e.wait - 1 := rfl

@[simp] theorem Channel.resetCycle_inp (i : ChanIn) : (c.resetCycle i).inp = i := rfl
@[simp] theorem Channel.resetCycle_reqReady (i : ChanIn) : (c.resetCycle i).reqReady = false := rfl
@[simp] theorem Channel.resetCycle_rspValid (i : ChanIn) : (c.resetCycle i).rspValid = false := rfl
@[simp] theorem Channel.resetCycle_rsp (i : ChanIn) : (c.resetCycle i).rsp = RspPorts.zero := rfl
@[simp] theorem Channel.resetCycle_inflight (i : ChanIn) : (c.resetCycle i).inflight = [] := rfl
@[simp] theorem Channel.resetCycle_fresh (i : ChanIn) : (c.resetCycle i).fresh = true := rfl
@[simp] theorem Channel.resetCycle_startup (i : ChanIn) :
    (c.resetCycle i).startup = Config.readyDelay := rfl
@[simp] theorem Channel.resetCycle_program (i : ChanIn) : (c.resetCycle i).program = c.program := rfl
@[simp] theorem Channel.resetCycle_accepted (i : ChanIn) : (c.resetCycle i).accepted = [] := rfl
@[simp] theorem Channel.resetCycle_delivered (i : ChanIn) : (c.resetCycle i).delivered = [] := rfl

end Sys2Proof.Machine
end

