-- ==== Sys2Proof/Laws/Ops.lean ====
section
/-!
SUPPORT. What each shared operation does, said once: the responses of the operation bodies by the form
of the operand, and what a step can be.
-/

namespace Sys2Proof.Machine

/-! ### Small lemmas -/

@[simp] theorem onNext_next (s : State) (f : State → State) : onNext (.next s) f = .next (f s) := rfl

/-- A step that goes on through `onNext` went on before it. -/
theorem onNext_eq_next {o : Outcome} {f : State → State} {t : State} (h : onNext o f = .next t) :
    ∃ u, o = .next u ∧ t = f u := by
  cases o with
  | next u => exact ⟨u, rfl, by simpa [onNext] using h.symm⟩
  | fault r => simp [onNext] at h
  | refused r => simp [onNext] at h

@[simp] theorem respond_eq (r : Result) (s : State) : respond r s = .next (s.answer (.ok r)) := rfl
@[simp] theorem raise_eq (cmd : Cmd) (e : ErrorInfo PortInt) (s : State) :
    raise cmd e s = .next (s.answer (.err cmd e)) := rfl
@[simp] theorem afterCheck_ok {α : Type} (cmd : Cmd) (a : α) (k : α → Outcome) (s : State) :
    afterCheck cmd (.ok a) k s = k a := rfl
@[simp] theorem afterCheck_error {α : Type} (cmd : Cmd) (e : ErrorInfo PortInt) (k : α → Outcome)
    (s : State) : afterCheck cmd (.error e) k s = .next (s.answer (.err cmd e)) := rfl

/-- An offending integer that fits the port stands on it. -/
theorem withErrValue_fits {v : Int} (p : RspPorts) (h1 : -2 ^ 65 ≤ v) (h2 : v < 2 ^ 65) :
    withErrValue p (.exact v) = { p with errValue := BitVec.ofInt 66 v } := if_pos ⟨h1, h2⟩

/-- An offending integer that does not fit the port is reported as one known to be beyond it. -/
theorem withErrValue_unfit {v : Int} (p : RspPorts) (h : v < -2 ^ 65 ∨ 2 ^ 65 ≤ v) :
    withErrValue p (.exact v) = withErrValue p (.beyond (decide (v < 0))) :=
  if_neg (by omega)

@[simp] theorem withErrValue_beyond (p : RspPorts) (neg : Bool) :
    withErrValue p (.beyond neg) = { p with errValueOor := true, errValueOorNeg := neg } := rfl

/-- An expected count that fits the port stands on it. -/
theorem expectedLenPort_fits {x : Nat} (h : x < 2 ^ 32) :
    expectedLenPort x = BitVec.ofNat 32 x := if_pos h

/-- There is always room in an empty list. -/
theorem fifoDepth_pos : 0 < Config.fifoDepth := Nat.succ_pos _

/-- The pattern and the bytes of a tag. -/
theorem portOperand_bytes_length {p : ReqPorts} {len : Nat} {bs : List Byte}
    (h : portOperand p = .bytes len bs) (hlen : len ≤ 8) : bs.length = len := by
  unfold portOperand at h
  split at h <;> simp only [Operand.bytes.injEq, reduceCtorEq] at h
  obtain ⟨h1, h2⟩ := h
  subst h1 h2
  simp [portBytes, hlen]

/-! ### The validator (43_validation R172 to R177) -/

theorem validateEncInt_in {v lo hi : Int} (h1 : lo ≤ v) (h2 : v ≤ hi) :
    validateEncInt (.int (.exact v)) lo hi = .ok v := by
  have h : ¬(v < lo ∨ hi < v) := by omega
  simp [validateEncInt, h]

theorem validateEncInt_out {v lo hi : Int} (h : v < lo ∨ hi < v) :
    validateEncInt (.int (.exact v)) lo hi = .error (.rangeValue (.exact v) lo hi) := by
  simp [validateEncInt, h]

@[simp] theorem validateEncInt_beyond (neg : Bool) (lo hi : Int) :
    validateEncInt (.int (.beyond neg)) lo hi = .error (.rangeValue (.beyond neg) lo hi) := rfl

theorem validateEncInt_tag {op : Operand} (lo hi : Int) (h : op.tag ≠ .int) :
    validateEncInt op lo hi = .error (.type .int op.tag) := by
  cases op <;> simp_all [validateEncInt, Operand.tag]

@[simp] theorem validateEncFloat32_ok (b : BitVec 32) :
    validateEncFloat32 (.float32 b) = .ok b := rfl

theorem validateEncFloat32_tag {op : Operand} (h : op.tag ≠ .float32) :
    validateEncFloat32 op = .error (.type .float32 op.tag) := by
  cases op <;> simp_all [validateEncFloat32, Operand.tag]

@[simp] theorem validateEncFloat64_ok (b : BitVec 64) :
    validateEncFloat64 (.float64 b) = .ok b := rfl

theorem validateEncFloat64_tag {op : Operand} (h : op.tag ≠ .float64) :
    validateEncFloat64 op = .error (.type .float64 op.tag) := by
  cases op <;> simp_all [validateEncFloat64, Operand.tag]

@[simp] theorem validateDec_ok (w : Nat) (bs : List Byte) :
    validateDec (.bytes (w / 8) bs) w = .ok bs := by
  simp [validateDec]

theorem validateDec_length {w len : Nat} (bs : List Byte) (h : len ≠ w / 8) :
    validateDec (.bytes len bs) w = .error (.rangeLength (w / 8) len) := by
  simp [validateDec, h]

theorem validateDec_tag {op : Operand} (w : Nat) (h : op.tag ≠ .bytes) :
    validateDec op w = .error (.type .bytes op.tag) := by
  cases op <;> simp_all [validateDec, Operand.tag]

/-! ### Serving a request -/

/-- An operation that checks its operand answers by a response that the operand and the free value
decide, if what it does with a checked value is so. -/
theorem afterCheck_uniform {α : Type} {op : Operand} {n : Nat} (cmd : Cmd)
    (check : Operand → Except (ErrorInfo PortInt) α) (k : α → State → Outcome)
    (hk : ∀ a, ∃ r m, ∀ s : State, s.operand = op → s.free = n →
      k a s = .next { s.answer r with free := m }) :
    ∃ r m, ∀ s : State, s.operand = op → s.free = n →
      afterCheck cmd (check s.operand) (fun a => k a s) s =
        .next { s.answer r with free := m } := by
  cases h : check op with
  | error e => exact ⟨.err cmd e, n, fun s ho hn => by subst hn; simp [ho, h, State.answer]⟩
  | ok a =>
    obtain ⟨r, m, hr⟩ := hk a
    exact ⟨r, m, fun s ho hn => by simpa [ho, h] using hr s ho hn⟩

theorem respond_uniform {op : Operand} {n : Nat} (r : Result) :
    ∃ r' m, ∀ s : State, s.operand = op → s.free = n →
      respond r s = .next { s.answer r' with free := m } :=
  ⟨.ok r, n, fun _ _ hn => by subst hn; rfl⟩

theorem respondOpen_uniform {op : Operand} {n w : Nat} (cmd : Cmd) (wrap : BitVec w → Result)
    (x : BitVec w) :
    ∃ r m, ∀ s : State, s.operand = op → s.free = n →
      respondOpen cmd wrap x s = .next { s.answer r with free := m } :=
  ⟨openResponse Config.nanPolicy cmd wrap x (Config.nanDraw w n), n + 1, fun _ _ hn => by
    subst hn; rfl⟩

/-- The float bodies end in an open response for a NaN and in a plain one otherwise. -/
theorem respondNaN_uniform {op : Operand} {n w : Nat} (cmd : Cmd) (wrap : BitVec w → Result)
    (x : BitVec w) (nan : Bool) :
    ∃ r m, ∀ s : State, s.operand = op → s.free = n →
      (if nan = true then respondOpen cmd wrap x s else respond (wrap x) s) =
        .next { s.answer r with free := m } := by
  cases nan
  · exact respond_uniform _
  · exact respondOpen_uniform _ _ _

/-- An operation answers by a response that its operand and the free value decide. -/
theorem exec_uniform (i : Instr) (op : Operand) (n : Nat) :
    ∃ r m, ∀ s : State, s.operand = op → s.free = n →
      exec i s = .next { s.answer r with free := m } := by
  cases i <;> first
    | exact afterCheck_uniform _ (fun o => validateEncInt o _ _) _ fun _ => respond_uniform _
    | exact afterCheck_uniform _ (fun o => validateDec o _) _ fun _ => respond_uniform _
    | exact afterCheck_uniform _ validateEncFloat32 _ fun _ =>
        respondNaN_uniform _ (fun x => .bytes (toBE x)) _ _
    | exact afterCheck_uniform _ validateEncFloat64 _ fun _ =>
        respondNaN_uniform _ (fun x => .bytes (toBE x)) _ _
    | exact afterCheck_uniform _ (fun o => validateDec o _) _ fun _ => respondNaN_uniform _ _ _ _

/-- Serving a request always answers it, by a response that the request and the free value decide, and
changes nothing else but the count of free values. -/
theorem serve_uniform (p : ReqPorts) (n : Nat) :
    ∃ r m, ∀ s : State, s.dp.req = p → s.free = n →
      serve s = .next { s.answer r with free := m } := by
  cases h : Sys2Proof.decode p.cmd with
  | error g =>
    refine ⟨.err p.cmd .illegal, n, fun s hp hn => ?_⟩
    subst hp hn
    simp [serve, h, State.answer]
  | ok i =>
    obtain ⟨r, m, hr⟩ := exec_uniform i (portOperand p) n
    refine ⟨r, m, fun s hp hn => ?_⟩
    subst hp
    simpa [serve, h] using hr s rfl hn

/-! ### What a step can be -/

/-- A step that goes on is a reset cycle, or a cycle of a channel driven by the script or by the
program host. -/
theorem step_cases {s t : State} (h : step s = .next t) :
    (∃ driven rest, s.script = .reset driven :: rest ∧
      t = ({ s with script := rest }).resetCycle driven) ∨
    (∃ k inp rest c, s.live = true ∧ s.script = .cycle k inp :: rest ∧ s.channels[k]? = some c ∧
      runChannel k (c.drive inp) { s with script := rest } = .next t) ∨
    (∃ c, s.live = true ∧ s.script = [] ∧ s.channels[s.turn]? = some c ∧
      runChannel s.turn
        (if (c.drive c.programIn).accepting then (c.drive c.programIn).advanceProgram
          else c.drive c.programIn)
        { s with turn := nextTurn s } = .next t) := by
  unfold step nextEvent at h
  split at h
  · rename_i driven rest hs
    exact .inl ⟨driven, rest, hs, by simpa using h.symm⟩
  · rename_i k inp rest hs
    split at h
    · rename_i hl
      unfold cycle at h
      split at h
      · simp at h
      · rename_i c hc
        exact .inr (.inl ⟨k, inp, rest, c, hl, hs, hc, h⟩)
    · simp at h
  · rename_i hs
    split at h
    · rename_i hl
      unfold programCycle at h
      split at h
      · simp at h
      · rename_i c hc
        exact .inr (.inr ⟨c, hl, hs, hc, h⟩)
    · simp at h

/-- A channel's cycle that goes on: either its request was served and the cycle ended with the
response, or there was none to serve. -/
theorem runChannel_cases {k : Nat} {c : Channel} {s t : State}
    (h : runChannel k c s = .next t) :
    (c.accepting = true ∧ ∃ u, serve (s.route c.inp.req) = .next u ∧ t = u.endCycle k c) ∨
    (c.accepting = false ∧ t = ({ s with dp := Datapath.idle }).endCycle k c) := by
  unfold runChannel at h
  split at h
  · rename_i ha
    obtain ⟨u, hu, ht⟩ := onNext_eq_next h
    exact .inl ⟨ha, u, hu, ht⟩
  · rename_i ha
    exact .inr ⟨by simpa using ha, by simpa using h.symm⟩

end Sys2Proof.Machine
end

