-- ==== Sys2Proof/Laws/Cycle.lean ====
section
/-!
SUPPORT. A cycle of a channel seen from outside (`CycleOf`): the one form that the step has for it,
whether the script or the program host drives it.
-/

namespace Sys2Proof

open Sys2Proof.Machine

variable {s : State} {k : Nat} {c : Channel} {inp : ChanIn}

/-- The channel of a cycle is one of the state's. -/
theorem CycleOf.lt (h : CycleOf s k c inp) : k < s.channels.length :=
  (List.getElem?_eq_some_iff.1 h.2.1).1

/-- The step of a cycle runs the channel with its inputs driven; the program host has moved on to its
next request only where this one is accepted. -/
theorem CycleOf.step_eq (h : CycleOf s k c inp) :
    ∃ c' s', step s = runChannel k c' s' ∧ s'.free = s.free ∧ s'.channels = s.channels ∧
      (c' = c.drive inp ∨
        c' = (c.drive inp).advanceProgram ∧ inp.reqValid = true ∧ c.canAccept = true) := by
  obtain ⟨hl, hc, ⟨rest, hs⟩ | ⟨hs, rfl, rfl⟩⟩ := h
  · exact ⟨_, { s with script := rest }, by simp [step, nextEvent, hs, hl, cycle, hc], rfl, rfl,
      .inl rfl⟩
  · cases ha : (c.drive c.programIn).accepting with
    | false =>
      exact ⟨_, { s with turn := nextTurn s },
        by simp [step, nextEvent, hs, hl, programCycle, hc, ha], rfl, rfl, .inl rfl⟩
    | true =>
      exact ⟨_, { s with turn := nextTurn s },
        by simp [step, nextEvent, hs, hl, programCycle, hc, ha], rfl, rfl,
        .inr ⟨rfl, by simpa [Channel.accepting, Channel.drive] using ha⟩⟩

end Sys2Proof
end

