-- ==== Sys2Proof/Laws/PerInstr.lean ====
section
/-!
SUPPORT. Per-instruction laws about the command words.
-/

namespace Sys2Proof.Laws.CommandWord

/-- 30_encoding R60, R62: the fields of an instruction's word are the codes of its own codec. -/
def Statement (i : Instr) : Prop :=
  (splitCmd (encode i)).rsvd = 0b000#3 ∧
  widthOfCode (splitCmd (encode i)).wcode = i.codec.width ∧
  kindOfCode (splitCmd (encode i)).kind = some i.codec.kind ∧
  dirOfCode (splitCmd (encode i)).dir = i.codec.dir

theorem encS8 : Statement .encS8 := by unfold Statement; decide
theorem decS8 : Statement .decS8 := by unfold Statement; decide
theorem encU8 : Statement .encU8 := by unfold Statement; decide
theorem decU8 : Statement .decU8 := by unfold Statement; decide
theorem encS16 : Statement .encS16 := by unfold Statement; decide
theorem decS16 : Statement .decS16 := by unfold Statement; decide
theorem encU16 : Statement .encU16 := by unfold Statement; decide
theorem decU16 : Statement .decU16 := by unfold Statement; decide
theorem encS32 : Statement .encS32 := by unfold Statement; decide
theorem decS32 : Statement .decS32 := by unfold Statement; decide
theorem encU32 : Statement .encU32 := by unfold Statement; decide
theorem decU32 : Statement .decU32 := by unfold Statement; decide
theorem encF32 : Statement .encF32 := by unfold Statement; decide
theorem decF32 : Statement .decF32 := by unfold Statement; decide
theorem encS64 : Statement .encS64 := by unfold Statement; decide
theorem decS64 : Statement .decS64 := by unfold Statement; decide
theorem encU64 : Statement .encU64 := by unfold Statement; decide
theorem decU64 : Statement .decU64 := by unfold Statement; decide
theorem encF64 : Statement .encF64 := by unfold Statement; decide
theorem decF64 : Statement .decF64 := by unfold Statement; decide

end Sys2Proof.Laws.CommandWord
end

