-- ==== Sys2Proof/Machine/AsmText.lean ====
section
/-!
DEFINITION. The text of the notation of 30_encoding R70: reading a request line and writing a
response. Text is a list of characters.
-/

namespace Sys2Proof.Machine.Asm

/-! ### Reading -/

/-- The value of a hex digit. -/
def hexDigit (c : Char) : Option Nat :=
  let n := c.toNat
  if 48 ≤ n ∧ n ≤ 57 then some (n - 48)
  else if 65 ≤ n ∧ n ≤ 70 then some (n - 55)
  else if 97 ≤ n ∧ n ≤ 102 then some (n - 87)
  else none

/-- Digits in a base, added to what was read before. -/
def digitsFrom (base acc : Nat) : List Char → Option Nat
  | [] => some acc
  | c :: cs =>
    match hexDigit c with
    | some d => if d < base then digitsFrom base (base * acc + d) cs else none
    | none => none

/-- One digit or more in a base. -/
def readDigits (base : Nat) : List Char → Option Nat
  | [] => none
  | cs => digitsFrom base 0 cs

/-- The rest of a text that begins with another. -/
def dropHead : List Char → List Char → Option (List Char)
  | [], cs => some cs
  | p :: ps, c :: cs => if p = c then dropHead ps cs else none
  | _ :: _, [] => none

/-- The text before the first `stop`, and what follows it. -/
def splitAtChar (stop : Char) : List Char → List Char × Option (List Char)
  | [] => ([], none)
  | c :: cs =>
    if c = stop then ([], some cs)
    else
      let r := splitAtChar stop cs
      (c :: r.1, r.2)

/-- A sign, if there is one: true for minus. -/
def readSign : List Char → Bool × List Char
  | '-' :: cs => (true, cs)
  | '+' :: cs => (false, cs)
  | cs => (false, cs)

/-- A decimal or `0x` hex number. -/
def readNat : List Char → Option Nat
  | '0' :: 'x' :: cs => readDigits 16 cs
  | cs => readDigits 10 cs

/-- An integer, optionally signed. -/
def readInt (cs : List Char) : Option Int :=
  let r := readSign cs
  (readNat r.2).map fun n => if r.1 then -(n : Int) else n

/-- The bytes of `HH…`, in order. -/
def readBytes : List Char → Option (List Byte)
  | [] => some []
  | a :: b :: cs =>
    match hexDigit a, hexDigit b, readBytes cs with
    | some x, some y, some bs => some (BitVec.ofNat 8 (16 * x + y) :: bs)
    | _, _, _ => none
  | [_] => none

/-- What stands inside `f32(…)` or `f64(…)`. -/
def readFloatName (cs : List Char) : Option FloatName :=
  if cs = ['m', 'a', 'x'] then some .max
  else if cs = ['l', 'o', 'w', 'e', 's', 't'] then some .lowest
  else
    let r := readSign cs
    if r.2 = ['i', 'n', 'f'] then some (if r.1 then .negInf else .posInf)
    else
      match splitAtChar '.' r.2 with
      | (whole, none) => (readDigits 10 whole).map fun n => .decimal r.1 n 0
      | (whole, some frac) =>
        match readDigits 10 whole, readDigits 10 frac with
        | some _, some _ => (readDigits 10 (whole ++ frac)).map fun n => .decimal r.1 n frac.length
        | _, _ => none

/-- The text inside a closing bracket or quote. -/
def untilClose (close : Char) (cs : List Char) : Option (List Char) :=
  match splitAtChar close cs with
  | (inside, some []) => some inside
  | _ => none

/-- A raw pattern of exactly `n` hex digits. -/
def readRaw (n : Nat) (cs : List Char) : Option Nat :=
  if cs.length = n then readDigits 16 cs else none

/-- An operand (30_encoding R70, the table of forms). -/
def readOperand (cs : List Char) : Option AsmOperand :=
  if cs = ['o', 't', 'h', 'e', 'r'] then some .other
  else
    match dropHead ['f', '3', '2', ':', '0', 'x'] cs, dropHead ['f', '6', '4', ':', '0', 'x'] cs,
      dropHead ['f', '3', '2', '('] cs, dropHead ['f', '6', '4', '('] cs, dropHead ['b', '\''] cs with
    | some r, _, _, _, _ => (readRaw 8 r).map fun n => .f32Raw (BitVec.ofNat 32 n)
    | _, some r, _, _, _ => (readRaw 16 r).map fun n => .f64Raw (BitVec.ofNat 64 n)
    | _, _, some r, _, _ => ((untilClose ')' r).bind readFloatName).map .f32
    | _, _, _, some r, _ => ((untilClose ')' r).bind readFloatName).map .f64
    | _, _, _, _, some r => ((untilClose '\'' r).bind readBytes).map .bytes
    | _, _, _, _, _ => (readInt cs).map .int

/-- The kind letter of a mnemonic. -/
def readKind : Char → Option Kind
  | 'S' => some .signed
  | 'U' => some .unsigned
  | 'F' => some .float
  | _ => none

/-- The width of a mnemonic. -/
def readWidth (cs : List Char) : Option Width :=
  if cs = ['8'] then some .w8 else if cs = ['1', '6'] then some .w16
  else if cs = ['3', '2'] then some .w32 else if cs = ['6', '4'] then some .w64 else none

/-- A mnemonic: direction, kind and width (30_encoding R63). -/
def readMnemonic (cs : List Char) : Option Instr :=
  let go (d : Dir) : List Char → Option Instr
    | k :: w =>
      match readKind k, readWidth w with
      | some k, some w => instrOfCodec ⟨d, k, w⟩
      | _, _ => none
    | [] => none
  match dropHead ['E', 'N', 'C', '.'] cs, dropHead ['D', 'E', 'C', '.'] cs with
  | some r, _ => go .encode r
  | _, some r => go .decode r
  | _, _ => none

/-- A request line: `<mnemonic> <operand>`, or `.RAW 0xNN <operand>` (30_encoding R70). -/
def readLine (cs : List Char) : Option Line :=
  match dropHead ['.', 'R', 'A', 'W', ' ', '0', 'x'] cs with
  | some (a :: b :: ' ' :: rest) =>
    match readDigits 16 [a, b], readOperand rest with
    | some w, some o => some ⟨.raw (BitVec.ofNat 8 w), o⟩
    | _, _ => none
  | some _ => none
  | none =>
    match splitAtChar ' ' cs with
    | (m, some rest) =>
      match readMnemonic m, readOperand rest with
      | some i, some o => some ⟨.op i, o⟩
      | _, _ => none
    | (_, none) => none

/-! ### Writing -/

/-- The hex digit of a number below 16, in capitals. -/
def hexChar (n : Nat) : Char := if n < 10 then Char.ofNat (48 + n) else Char.ofNat (55 + n)

/-- `n` hex digits, the most significant first. -/
def writeHex (n x : Nat) : List Char :=
  (List.range n).map fun i => hexChar (x / 16 ^ (n - 1 - i) % 16)

/-- A decimal integer. -/
def writeInt (v : Int) : List Char :=
  (if v < 0 then ['-'] else []) ++ Nat.toDigits 10 v.natAbs

/-- The name of a tag (30_encoding R65). -/
def writeTag : Tag → List Char
  | .int => ['I', 'N', 'T']
  | .float32 => ['F', 'L', 'O', 'A', 'T', '3', '2']
  | .float64 => ['F', 'L', 'O', 'A', 'T', '6', '4']
  | .bytes => ['B', 'Y', 'T', 'E', 'S']
  | .other _ => ['O', 'T', 'H', 'E', 'R']

/-- A result, in the operand syntax. -/
def writeResult : Result → List Char
  | .int v => writeInt v
  | .float32 b => ['f', '3', '2', ':', '0', 'x'] ++ writeHex 8 b.toNat
  | .float64 b => ['f', '6', '4', ':', '0', 'x'] ++ writeHex 16 b.toNat
  | .bytes bs => ['b', '\''] ++ bs.flatMap (fun b => writeHex 2 b.toNat) ++ ['\'']

/-- A response (30_encoding R70). -/
def writeResponse : Response Int → List Char
  | .ok r => ['O', 'K', ' '] ++ writeResult r
  | .err _ (.type x a) =>
    ['T', 'Y', 'P', 'E', '(', 'e', 'x', 'p', 'e', 'c', 't', 'e', 'd', '='] ++ writeTag x ++
    [',', ' ', 'a', 'c', 't', 'u', 'a', 'l', '='] ++ writeTag a ++ [')']
  | .err _ (.rangeValue v lo hi) =>
    ['R', 'A', 'N', 'G', 'E', '(', 'v', 'a', 'l', 'u', 'e', '='] ++ writeInt v ++
    [',', ' ', 'm', 'i', 'n', '='] ++ writeInt lo ++ [',', ' ', 'm', 'a', 'x', '='] ++
    writeInt hi ++ [')']
  | .err _ (.rangeLength x a) =>
    ['R', 'A', 'N', 'G', 'E', '(', 'l', 'e', 'n', ' ', 'e', 'x', 'p', 'e', 'c', 't', 'e', 'd', '='] ++
    writeInt x ++ [',', ' ', 'a', 'c', 't', 'u', 'a', 'l', '='] ++ writeInt a ++ [')']
  | .err cmd .illegal =>
    ['I', 'L', 'L', 'E', 'G', 'A', 'L', '(', 'c', 'm', 'd', '=', '0', 'x'] ++ writeHex 2 cmd.toNat ++
    [')']

end Sys2Proof.Machine.Asm
end

