-- ==== Sys2Proof/Tests/Slice0.lean ====
section
/-!
SUPPORT. Small tests with results from the spec (95_test_vectors and the rules' own examples), and a
witness for the hypotheses of each obligation that has any.
-/

namespace Sys2Proof.Tests

open Sys2Proof Sys2Proof.Machine Sys2Proof.Machine.Ref

/-! ### Helpers -/

/-- The machine right after reset with `cmd` and `v` on the datapath. -/
def serving (cmd : Cmd) (v : HostValue) : State := State.reset.route (drive cmd v)

/-- The response an outcome leaves on the datapath. -/
def answerOf (o : Outcome) : Option BlockResponse :=
  match o with
  | .next t => t.dp.rsp
  | _ => none

/-- Did the machine go on? -/
def goesOn (o : Outcome) : Bool :=
  match o with
  | .next _ => true
  | _ => false

/-! ### Well-formedness: one ill-formed term for each check (30_encoding R61; 00_scope R9) -/

theorem test_wf_reserved_bits : CmdFields.legal ⟨0b001#3, 0b00#2, 0b00#2, 0#1⟩ = false := by decide
theorem test_wf_reserved_kind : CmdFields.legal ⟨0b000#3, 0b00#2, 0b11#2, 0#1⟩ = false := by decide
theorem test_wf_float_width : CmdFields.legal ⟨0b000#3, 0b01#2, 0b10#2, 0#1⟩ = false := by decide
theorem test_wf_legal : CmdFields.legal ⟨0b000#3, 0b10#2, 0b10#2, 0#1⟩ = true := by decide
theorem test_wf_codec_float8 : Codec.wf ⟨.encode, .float, .w8⟩ = false := by decide
theorem test_wf_codec_float16 : Codec.wf ⟨.decode, .float, .w16⟩ = false := by decide

/-! ### Decoding: every word of 30_encoding R63, written out as its bits 7..0 -/

theorem test_word_encS8 : Sys2Proof.decode 0b00000000#8 = .ok .encS8 := by decide
theorem test_word_decS8 : Sys2Proof.decode 0b00000001#8 = .ok .decS8 := by decide
theorem test_word_encU8 : Sys2Proof.decode 0b00000010#8 = .ok .encU8 := by decide
theorem test_word_decU8 : Sys2Proof.decode 0b00000011#8 = .ok .decU8 := by decide
theorem test_word_encS16 : Sys2Proof.decode 0b00001000#8 = .ok .encS16 := by decide
theorem test_word_decS16 : Sys2Proof.decode 0b00001001#8 = .ok .decS16 := by decide
theorem test_word_encU16 : Sys2Proof.decode 0b00001010#8 = .ok .encU16 := by decide
theorem test_word_decU16 : Sys2Proof.decode 0b00001011#8 = .ok .decU16 := by decide
theorem test_word_encS32 : Sys2Proof.decode 0b00010000#8 = .ok .encS32 := by decide
theorem test_word_decS32 : Sys2Proof.decode 0b00010001#8 = .ok .decS32 := by decide
theorem test_word_encU32 : Sys2Proof.decode 0b00010010#8 = .ok .encU32 := by decide
theorem test_word_decU32 : Sys2Proof.decode 0b00010011#8 = .ok .decU32 := by decide
theorem test_word_encF32 : Sys2Proof.decode 0b00010100#8 = .ok .encF32 := by decide
theorem test_word_decF32 : Sys2Proof.decode 0b00010101#8 = .ok .decF32 := by decide
theorem test_word_encS64 : Sys2Proof.decode 0b00011000#8 = .ok .encS64 := by decide
theorem test_word_decS64 : Sys2Proof.decode 0b00011001#8 = .ok .decS64 := by decide
theorem test_word_encU64 : Sys2Proof.decode 0b00011010#8 = .ok .encU64 := by decide
theorem test_word_decU64 : Sys2Proof.decode 0b00011011#8 = .ok .decU64 := by decide
theorem test_word_encF64 : Sys2Proof.decode 0b00011100#8 = .ok .encF64 := by decide
theorem test_word_decF64 : Sys2Proof.decode 0b00011101#8 = .ok .decF64 := by decide

theorem test_word_kind11 : Sys2Proof.decode 0x06#8 = .error .reservedKind := by decide
theorem test_word_float8 : Sys2Proof.decode 0x04#8 = .error .noSuchFloatWidth := by decide
theorem test_word_float16 : Sys2Proof.decode 0x0D#8 = .error .noSuchFloatWidth := by decide
theorem test_word_bit7 : Sys2Proof.decode 0x90#8 = .error .reservedBits := by decide
theorem test_word_with_operand_bits_is_none : decodeTableWord 8 0x100 = none := by decide

/-! ### Responses of the 20 operations -/

theorem test_encS8_minus_one :
    answerOf (exec .encS8 (serving 0x00#8 (.int (-1)))) = some (.ok (.bytes [0x7F#8])) := by decide
theorem test_encS8_too_big :
    answerOf (exec .encS8 (serving 0x00#8 (.int 128))) = some (.err 0x00#8 (.rangeValue (.exact 128) (-128) 127)) := by decide
theorem test_decS8_lowest :
    answerOf (exec .decS8 (serving 0x01#8 (.bytes [0x00#8]))) = some (.ok (.int (-128))) := by decide
theorem test_decS8_two_bytes :
    answerOf (exec .decS8 (serving 0x01#8 (.bytes [0x00#8, 0x00#8]))) = some (.err 0x01#8 (.rangeLength 1 2)) := by decide
theorem test_encU8_200 :
    answerOf (exec .encU8 (serving 0x02#8 (.int 200))) = some (.ok (.bytes [0xC8#8])) := by decide
theorem test_encU8_bytes :
    answerOf (exec .encU8 (serving 0x02#8 (.bytes [0x01#8]))) = some (.err 0x02#8 (.type .int .bytes)) := by decide
theorem test_decU8_200 :
    answerOf (exec .decU8 (serving 0x03#8 (.bytes [0xC8#8]))) = some (.ok (.int 200)) := by decide
theorem test_decU8_empty :
    answerOf (exec .decU8 (serving 0x03#8 (.bytes []))) = some (.err 0x03#8 (.rangeLength 1 0)) := by decide
theorem test_encS16_source :
    answerOf (exec .encS16 (serving 0x08#8 (.int (-3332)))) = some (.ok (.bytes [0x72#8, 0xFC#8])) := by decide
theorem test_encS16_float :
    answerOf (exec .encS16 (serving 0x08#8 (.float64 0x4000000000000000#64))) = some (.err 0x08#8 (.type .int .float64)) := by decide
theorem test_decS16_source :
    answerOf (exec .decS16 (serving 0x09#8 (.bytes [0x72#8, 0xFC#8]))) = some (.ok (.int (-3332))) := by decide
theorem test_decS16_int :
    answerOf (exec .decS16 (serving 0x09#8 (.int (-3332)))) = some (.err 0x09#8 (.type .bytes .int)) := by decide
theorem test_encU16_256 :
    answerOf (exec .encU16 (serving 0x0A#8 (.int 256))) = some (.ok (.bytes [0x01#8, 0x00#8])) := by decide
theorem test_encU16_minus_one :
    answerOf (exec .encU16 (serving 0x0A#8 (.int (-1)))) = some (.err 0x0A#8 (.rangeValue (.exact (-1)) 0 65535)) := by decide
theorem test_decU16_other_codecs_key :
    answerOf (exec .decU16 (serving 0x0B#8 (.bytes [0x72#8, 0xFC#8]))) = some (.ok (.int 29436)) := by decide
theorem test_decU16_three_bytes :
    answerOf (exec .decU16 (serving 0x0B#8 (.bytes [0x00#8, 0x00#8, 0x01#8]))) = some (.err 0x0B#8 (.rangeLength 2 3)) := by decide
theorem test_encS32_negative :
    answerOf (exec .encS32 (serving 0x10#8 (.int (-16909060)))) = some (.ok (.bytes [0x7E#8, 0xFD#8, 0xFC#8, 0xFC#8])) := by decide
theorem test_encS32_too_small :
    answerOf (exec .encS32 (serving 0x10#8 (.int (-2147483649)))) = some (.err 0x10#8 (.rangeValue (.exact (-2147483649)) (-2147483648) 2147483647)) := by decide
theorem test_decS32_positive :
    answerOf (exec .decS32 (serving 0x11#8 (.bytes [0x81#8, 0x02#8, 0x03#8, 0x04#8]))) = some (.ok (.int 16909060)) := by decide
theorem test_decS32_short :
    answerOf (exec .decS32 (serving 0x11#8 (.bytes [0x00#8, 0x00#8, 0x00#8]))) = some (.err 0x11#8 (.rangeLength 4 3)) := by decide
theorem test_encU32_order :
    answerOf (exec .encU32 (serving 0x12#8 (.int 16909060))) = some (.ok (.bytes [0x01#8, 0x02#8, 0x03#8, 0x04#8])) := by decide
theorem test_encU32_too_big :
    answerOf (exec .encU32 (serving 0x12#8 (.int 4294967296))) = some (.err 0x12#8 (.rangeValue (.exact 4294967296) 0 4294967295)) := by decide
theorem test_decU32_order :
    answerOf (exec .decU32 (serving 0x13#8 (.bytes [0x01#8, 0x02#8, 0x03#8, 0x04#8]))) = some (.ok (.int 16909060)) := by decide
theorem test_decU32_other :
    answerOf (exec .decU32 (serving 0x13#8 (.other 0b00#2))) = some (.err 0x13#8 (.type .bytes (.other 0b00#2))) := by decide
theorem test_encF32_negative_zero :
    answerOf (exec .encF32 (serving 0x14#8 (.float32 0x80000000#32))) = some (.ok (.bytes [0x80#8, 0x00#8, 0x00#8, 0x00#8])) := by decide
theorem test_encF32_minus_infinity :
    answerOf (exec .encF32 (serving 0x14#8 (.float32 0xFF800000#32))) = some (.ok (.bytes [0x00#8, 0x7F#8, 0xFF#8, 0xFF#8])) := by decide
theorem test_decF32_no_encodes_key :
    answerOf (exec .decF32 (serving 0x15#8 (.bytes [0x7F#8, 0xFF#8, 0xFF#8, 0xFF#8]))) = some (.ok (.float32 0x80000000#32)) := by decide
theorem test_decF32_negative :
    answerOf (exec .decF32 (serving 0x15#8 (.bytes [0x40#8, 0x7F#8, 0xFF#8, 0xFF#8]))) = some (.ok (.float32 0xBF800000#32)) := by decide
theorem test_encS64_lowest :
    answerOf (exec .encS64 (serving 0x18#8 (.int (-9223372036854775808)))) = some (.ok (.bytes [0x00#8, 0x00#8, 0x00#8, 0x00#8, 0x00#8, 0x00#8, 0x00#8, 0x00#8])) := by decide
theorem test_encS64_beyond_port :
    answerOf (exec .encS64 (serving 0x18#8 (.int 36893488147419103232))) = some (.err 0x18#8 (.rangeValue (.beyond false) (-9223372036854775808) 9223372036854775807)) := by decide
theorem test_decS64_minus_one :
    answerOf (exec .decS64 (serving 0x19#8 (.bytes [0x7F#8, 0xFF#8, 0xFF#8, 0xFF#8, 0xFF#8, 0xFF#8, 0xFF#8, 0xFF#8]))) = some (.ok (.int (-1))) := by decide
theorem test_decS64_ten_bytes :
    answerOf (exec .decS64 (serving 0x19#8 (.bytes [0x00#8, 0x00#8, 0x00#8, 0x00#8, 0x00#8, 0x00#8, 0x00#8, 0x00#8, 0x00#8, 0x00#8]))) = some (.err 0x19#8 (.rangeLength 8 10)) := by decide
theorem test_encU64_top :
    answerOf (exec .encU64 (serving 0x1A#8 (.int 18446744073709551615))) = some (.ok (.bytes [0xFF#8, 0xFF#8, 0xFF#8, 0xFF#8, 0xFF#8, 0xFF#8, 0xFF#8, 0xFF#8])) := by decide
theorem test_encU64_beyond_port :
    answerOf (exec .encU64 (serving 0x1A#8 (.int (-36893488147419103233)))) = some (.err 0x1A#8 (.rangeValue (.beyond true) 0 18446744073709551615)) := by decide
theorem test_decU64_top_bit :
    answerOf (exec .decU64 (serving 0x1B#8 (.bytes [0x80#8, 0x00#8, 0x00#8, 0x00#8, 0x00#8, 0x00#8, 0x00#8, 0x00#8]))) = some (.ok (.int 9223372036854775808)) := by decide
theorem test_decU64_four_bytes :
    answerOf (exec .decU64 (serving 0x1B#8 (.bytes [0x00#8, 0x00#8, 0x00#8, 0x00#8]))) = some (.err 0x1B#8 (.rangeLength 8 4)) := by decide
theorem test_encF64_minus_one :
    answerOf (exec .encF64 (serving 0x1C#8 (.float64 0xBFF0000000000000#64))) = some (.ok (.bytes [0x40#8, 0x0F#8, 0xFF#8, 0xFF#8, 0xFF#8, 0xFF#8, 0xFF#8, 0xFF#8])) := by decide
theorem test_encF64_float32 :
    answerOf (exec .encF64 (serving 0x1C#8 (.float32 0x3F800000#32))) = some (.err 0x1C#8 (.type .float64 .float32)) := by decide
theorem test_decF64_one :
    answerOf (exec .decF64 (serving 0x1D#8 (.bytes [0xBF#8, 0xF0#8, 0x00#8, 0x00#8, 0x00#8, 0x00#8, 0x00#8, 0x00#8]))) = some (.ok (.float64 0x3FF0000000000000#64)) := by decide
theorem test_decF64_four_bytes :
    answerOf (exec .decF64 (serving 0x1D#8 (.bytes [0xBF#8, 0xF0#8, 0x00#8, 0x00#8]))) = some (.err 0x1D#8 (.rangeLength 8 4)) := by decide

/-! ### NaN: under MECHANICAL the patterns of 95_test_vectors L2-F3, under DRAW what is drawn -/

theorem test_nan_mechanical :
    openResponse .mechanical 0x14#8 (fun x => .bytes (toBE x)) (fenc (canonZero 0x7FC00000#32))
      (.answer 0#32) = .ok (.bytes [0xFF#8, 0xC0#8, 0x00#8, 0x00#8]) := by decide
theorem test_nan_mechanical_decode : fdec 0x00000000#32 = 0xFFFFFFFF#32 := by decide
theorem test_nan_draw_error :
    openResponse .draw 0x15#8 .float32 0#32 (.error (.rangeLength 4 4)) =
      .err 0x15#8 (.rangeLength 4 4) := by decide
theorem test_nan_pattern : isNaN 0x7F800001#32 = true ∧ isNaN 0x7F800000#32 = false := by decide

/-! ### Ports (95_test_vectors P1, P3, P4) -/

theorem test_ports_p1_decode :
    responsePorts (.ok (.int (-3332))) = { RspPorts.zero with rspInt := 0x3FFFFFFFFFFFFF2FC#66 } := by
  decide
theorem test_ports_p3_range :
    responsePorts (.err 0x00#8 (.rangeValue (.exact 128) (-128) 127)) =
      { RspPorts.zero with
        rspStatus := 0b10, rspTag := 0b111, errValue := 0x80, errMin := 0x3FFFFFFFFFFFFFF80,
        errMax := 0x7F } := by decide
theorem test_ports_p3_type :
    responsePorts (.err 0x14#8 (.type .float32 .float64)) =
      { RspPorts.zero with
        rspStatus := 0b01, rspTag := 0b111, errCmd := 0x14, errExpectedTag := 0b001,
        errActualTag := 0b010 } := by decide
theorem test_ports_p4_beyond :
    responsePorts
        (.err 0x18#8 (.rangeValue (.beyond false) (-9223372036854775808) 9223372036854775807)) =
      { RspPorts.zero with
        rspStatus := 0b10, rspTag := 0b111, errCmd := 0x18, errValueOor := true,
        errMin := 0x38000000000000000, errMax := 0x07FFFFFFFFFFFFFFF } := by decide
/-- R30 at the edge of the port: 2^65 − 1 is carried, 2^65 is not. -/
theorem test_ports_exact_at_the_edge :
    let p := responsePorts (.err 0x14#8 (.rangeValue (.exact 36893488147419103231) 0 1))
    let q := responsePorts (.err 0x14#8 (.rangeValue (.exact 36893488147419103232) 0 1))
    (p.errValue, p.errValueOor) = (0x1FFFFFFFFFFFFFFFF#66, false) ∧
      (q.errValue, q.errValueOor, q.errValueOorNeg) = (0#66, true, false) := by decide
theorem test_ports_long_bytes_have_no_content :
    portOperand { ReqPorts.zero with opTag := 0b011, opLen := 9, opBytes := 0xFF } =
      .bytes 9 [] := by decide
theorem test_ports_saturated_length :
    answerOf (exec .decU64 (State.reset.route
      { ReqPorts.zero with opTag := 0b011, opLen := 0xFFFFFFFF#32 })) =
      some (.err 0x1B#8 (.rangeLength 8 4294967295)) := by decide
theorem test_ports_unused_bits_ignored :
    portOperand { ReqPorts.zero with opTag := 0b001, opBits := 0xFFFFFFFF3F800000 } =
      .float32 0x3F800000#32 := by decide

/-! ### The notation (30_encoding R70) -/

theorem test_read_line :
    Asm.readLine ['E', 'N', 'C', '.', 'S', '1', '6', ' ', '-', '3', '3', '3', '2'] =
      some ⟨.op .encS16, .int (-3332)⟩ := by decide
theorem test_read_raw :
    Asm.readLine ['.', 'R', 'A', 'W', ' ', '0', 'x', '0', '6', ' ', 'o', 't', 'h', 'e', 'r'] =
      some ⟨.raw 0x06#8, .other⟩ := by decide
theorem test_decimal_one_and_a_half :
    Asm.pattern32 (.decimal true 15 1) = some 0xBFC00000#32 := by decide
theorem test_write_error :
    Asm.writeResponse (.err 0x06#8 .illegal) =
      ['I', 'L', 'L', 'E', 'G', 'A', 'L', '(', 'c', 'm', 'd', '=', '0', 'x', '0', '6', ')'] := by
  decide

/-! ### Steps -/

theorem test_step_runs_a_command : goesOn (step (State.reset.withFetchWord 8 0x15)) = true := by decide
theorem test_step_accepts_it :
    (match step (State.reset.withFetchWord 8 0x1D) with
      | .next t => t.channels.head?.map fun c => c.accepted
      | _ => none) = some [commandPorts 0x1D] := by decide
theorem test_step_idle_after_reset : goesOn (step State.reset) = true := by decide
theorem test_first_cycle_is_not_ready :
    (match step State.reset with
      | .next t => t.channels.head?.map fun c => (c.reqReady, c.rspValid, c.rsp)
      | _ => none) = some (false, false, RspPorts.zero) := by decide

/-! ### Witnesses: a state and operands that meet the hypotheses of each obligation that has any -/

theorem witness_DecodeGivesOnlyTheOwnWord : Sys2Proof.decode 0x1D#8 = .ok .decF64 := by decide

theorem witness_LegalExactlyWhenFieldsAllow :
    ∀ i, Sys2Proof.decode (serving 0x06#8 (.other 0)).dp.req.cmd ≠ .ok i := by
  intro i; cases i <;> decide

theorem witness_SerialisationIsBigEndian : 64 ∈ [8, 16, 32, 64] ∧ 7 < 64 / 8 := by decide

theorem witness_ParsingIsBigEndianAndInverts : [0x72#8, 0xFC#8].length = 16 / 8 := by decide

theorem witness_LexOrderIsNumericOrder : [0x72#8, 0xFC#8].length = [0x80#8, 0x00#8].length := by decide

/-- Clauses of the integer encode rules: each bound, one beyond each, beyond the port, a wrong tag. -/
theorem witness_SignedEncodeRules_low :
    (serving 0x00#8 (.int (-128))).operand = intOp (-128) ∧ (-128 : Int) ≤ -128 ∧ (-128 : Int) ≤ 127 := by
  decide
theorem witness_SignedEncodeRules_high :
    (serving 0x18#8 (.int (2 ^ 63 - 1))).operand = intOp (2 ^ 63 - 1) ∧
      (-2 ^ 63 : Int) ≤ 2 ^ 63 - 1 := by decide
theorem witness_SignedEncodeRules_out :
    (serving 0x00#8 (.int 128)).operand = intOp 128 ∧ ((128 : Int) < -128 ∨ (127 : Int) < 128) := by
  decide
theorem witness_SignedEncodeRules_beyond :
    (serving 0x18#8 (.int (2 ^ 65))).operand = .int (.beyond false) := by decide
theorem witness_SignedEncodeRules_tag :
    (serving 0x08#8 (.float64 0)).operand.tag ≠ Tag.int := by decide

theorem witness_SignedDecodeRules_key :
    [0xFF#8].length = 8 / 8 ∧ (serving 0x01#8 (.bytes [0xFF#8])).operand = .bytes 1 [0xFF#8] := by decide
theorem witness_SignedDecodeRules_length :
    (serving 0x01#8 (.bytes [])).operand = .bytes 0 [] ∧ 0 ≠ 8 / 8 := by decide
theorem witness_SignedDecodeRules_tag :
    (serving 0x09#8 (.int (-3332))).operand.tag ≠ Tag.bytes := by decide

theorem witness_SignedEncodeIsTheBias :
    64 ∈ [8, 16, 32, 64] ∧ (-2 ^ (64 - 1) : Int) ≤ -2 ^ 63 ∧ (-2 ^ 63 : Int) ≤ 2 ^ (64 - 1) - 1 := by
  decide

theorem witness_SignedKeysKeepTheOrder :
    (-128 : Int) ≤ -128 ∧ (-128 : Int) ≤ 127 ∧ (-128 : Int) ≤ 127 ∧ (127 : Int) ≤ 127 := by decide

theorem witness_SignedCodecsAreBijections :
    (-2 ^ (8 - 1) : Int) ≤ 127 ∧ (127 : Int) ≤ 2 ^ (8 - 1) - 1 ∧ [0x00#8].length = 8 / 8 := by decide

theorem witness_SignedKeyIsTheOffsetUnsignedKey :
    (-2 ^ (16 - 1) : Int) ≤ -32768 ∧ (-32768 : Int) ≤ 2 ^ (16 - 1) - 1 := by decide

theorem witness_UnsignedEncodeRules_high :
    (serving 0x1A#8 (.int (2 ^ 64 - 1))).operand = intOp (2 ^ 64 - 1) ∧ (0 : Int) ≤ 2 ^ 64 - 1 := by
  decide
theorem witness_UnsignedEncodeRules_out :
    (serving 0x02#8 (.int (-1))).operand = intOp (-1) ∧ ((-1 : Int) < 0 ∨ (255 : Int) < -1) := by decide
theorem witness_UnsignedEncodeRules_beyond :
    (serving 0x1A#8 (.int (-2 ^ 65 - 1))).operand = .int (.beyond true) := by decide
theorem witness_UnsignedEncodeRules_tag :
    (serving 0x02#8 (.bytes [0x01#8])).operand.tag ≠ Tag.int := by decide

theorem witness_UnsignedDecodeRules_key :
    (serving 0x1B#8 (.bytes (List.replicate 8 0xFF#8))).operand =
      .bytes (64 / 8) (List.replicate 8 0xFF#8) := by decide
theorem witness_UnsignedDecodeRules_length :
    (serving 0x1B#8 (.bytes (List.replicate 9 0x00#8))).operand = .bytes 9 [] ∧ 9 ≠ 64 / 8 := by decide
theorem witness_UnsignedDecodeRules_tag :
    (serving 0x03#8 (.other 0b11#2)).operand.tag ≠ Tag.bytes := by decide

theorem witness_UnsignedCodecsAreBijections :
    (0 : Int) ≤ 255 ∧ (255 : Int) ≤ 2 ^ 8 - 1 ∧ [0xFF#8].length = 8 / 8 := by decide

theorem witness_UnsignedKeysKeepTheOrder :
    (0 : Int) ≤ 0 ∧ (0 : Int) ≤ 65535 ∧ (65535 : Int) ≤ 65535 := by decide

theorem witness_InferredThirtyTwoBitRules :
    (serving 0x10#8 (.int (-2147483648))).operand = intOp (-2147483648) ∧
      (serving 0x12#8 (.int 4294967296)).operand = intOp 4294967296 ∧
      (serving 0x12#8 (.int (2 ^ 65))).operand = .int (.beyond false) ∧
      (serving 0x11#8 (.bytes [0x00#8])).operand = .bytes 1 [0x00#8] ∧
      (serving 0x13#8 (.int 0)).operand.tag ≠ Tag.bytes := by decide

theorem witness_FloatEncodeRules_number :
    (serving 0x14#8 (.float32 0xFF800000#32)).operand = .float32 0xFF800000#32 ∧
      isNaN 0xFF800000#32 = false := by decide
theorem witness_FloatEncodeRules_nan :
    (serving 0x14#8 (.float32 0xFF800001#32)).operand = .float32 0xFF800001#32 ∧
      isNaN 0xFF800001#32 = true := by decide
theorem witness_FloatEncodeRules_nan64 :
    (serving 0x1C#8 (.float64 0x7FF0000000000001#64)).operand = .float64 0x7FF0000000000001#64 ∧
      isNaN 0x7FF0000000000001#64 = true := by decide
theorem witness_FloatEncodeRules_tag :
    (serving 0x14#8 (.float64 0)).operand.tag ≠ Tag.float32 := by decide

theorem witness_FloatDecodeRules_number :
    isNaN (BitVec.ofNat 32 (floatValue 32 (fromBE [0x00#8, 0x7F#8, 0xFF#8, 0xFF#8]))) = false := by
  decide
theorem witness_FloatDecodeRules_nan :
    (serving 0x15#8 (.bytes [0x00#8, 0x7F#8, 0xFF#8, 0xFE#8])).operand =
        .bytes (32 / 8) [0x00#8, 0x7F#8, 0xFF#8, 0xFE#8] ∧
      isNaN (BitVec.ofNat 32 (floatValue 32 (fromBE [0x00#8, 0x7F#8, 0xFF#8, 0xFE#8]))) = true := by
  decide
theorem witness_FloatDecodeRules_length :
    (serving 0x1D#8 (.bytes [0x00#8])).operand = .bytes 1 [0x00#8] ∧ 1 ≠ 64 / 8 := by decide
theorem witness_FloatDecodeRules_tag :
    (serving 0x15#8 (.float32 0)).operand.tag ≠ Tag.bytes := by decide

theorem witness_NanPolicyAdmitsExactlyTheDraws : 32 ∈ [32, 64] := by decide

theorem witness_FloatEncodeTransform_negative :
    2 ^ (32 - 1) ≤ (0x80000000#32).toNat := by decide
theorem witness_FloatEncodeTransform_positive :
    (0x7FFFFFFF#32).toNat < 2 ^ (32 - 1) := by decide

theorem witness_FloatDecodeTransform :
    (0x7FFFFFFF#32).toNat < 2 ^ (32 - 1) ∧ 2 ^ (32 - 1) ≤ (0x80000000#32).toNat := by decide

theorem witness_FloatRoundTrip :
    isNaN 0x80000000#32 = false ∧ isNaN 0xFFF0000000000000#64 = false := by decide

theorem witness_FloatKeysKeepTheOrder :
    isNaN 0xFF800000#32 = false ∧ isNaN 0x7F800000#32 = false ∧ isNaN 0x0000000000000001#64 = false := by
  decide

theorem witness_FloatKeysAreExactlyTheImage :
    fenc (canonZero 0x80000000#32) = fenc (canonZero 0x00000000#32) := by decide

theorem witness_ChecksHaveOneOrder_illegal :
    Sys2Proof.decode (serving 0x06#8 (.other 0)).dp.req.cmd = .error .reservedKind := by decide
theorem witness_ChecksHaveOneOrder_type :
    Sys2Proof.decode (serving 0x09#8 (.int 0)).dp.req.cmd = .ok .decS16 ∧
      (serving 0x09#8 (.int 0)).operand.tag ≠ requiredTag .decS16 := by decide
theorem witness_ChecksHaveOneOrder_range :
    Sys2Proof.decode (serving 0x00#8 (.int 128)).dp.req.cmd = .ok .encS8 ∧
      (serving 0x00#8 (.int 128)).operand.tag = requiredTag .encS8 ∧
      nanTransaction .encS8 (serving 0x00#8 (.int 128)).operand = false := by decide

theorem witness_TypeKindExactly :
    nanTransaction .encF32 (serving 0x14#8 (.float64 0)).operand = false := by decide

theorem witness_RangeKindExactly :
    nanTransaction .decF32 (serving 0x15#8 (.bytes [0x00#8])).operand = false := by decide

theorem witness_EveryKeyOfTheWidthDecodes :
    (Instr.decF32).codec.dir = .decode ∧
      [0x7F#8, 0xFF#8, 0xFF#8, 0xFF#8].length = (Instr.decF32).codec.width.bytes ∧
      nanTransaction .decF32 (.bytes 4 [0x7F#8, 0xFF#8, 0xFF#8, 0xFF#8]) = false := by decide

theorem witness_PortsAreReadAsPresented_beyond :
    PresentedOn (.int (2 ^ 65)) (drive 0x18#8 (.int (2 ^ 65))) := by
  unfold PresentedOn; decide
theorem witness_PortsAreReadAsPresented_edge :
    PresentedOn (.int (2 ^ 65 - 1)) (drive 0x18#8 (.int (2 ^ 65 - 1))) := by
  unfold PresentedOn; decide
theorem witness_PortsAreReadAsPresented_bytes :
    PresentedOn (.bytes (List.replicate 8 0xA5#8)) (drive 0x19#8 (.bytes (List.replicate 8 0xA5#8))) := by
  unfold PresentedOn; decide
theorem witness_PortsAreReadAsPresented_long :
    PresentedOn (.bytes (List.replicate 9 0xA5#8)) (drive 0x19#8 (.bytes (List.replicate 9 0xA5#8))) := by
  unfold PresentedOn; decide

theorem witness_RequestLinesPresentTheirOperand :
    Asm.hostValue (Asm.Line.operand ⟨.op .encF32, .f32 .negZero⟩) = some (.float32 0x80000000#32) := by
  decide

theorem witness_ResponsePortsAreTheTable : (List.replicate 8 0x00#8).length ≤ 8 ∧ 8 < 2 ^ 32 := by decide

/-- The bounds of the port on either side: −2^65 fits, −2^65 − 1 does not. -/
theorem witness_ResponsePortsAreTheTable_values :
    ((-2 : Int) ^ 65 ≤ -2 ^ 65 ∧ (-2 : Int) ^ 65 ≤ 2 ^ 65 - 1) ∧ (-2 : Int) ^ 65 - 1 < -2 ^ 65 := by
  decide

theorem witness_ResponsesDependOnTheRequestAlone :
    let s := serving 0x1D#8 (.bytes [0x00#8])
    let s' := State.powerUp.route (drive 0x1D#8 (.bytes [0x00#8]))
    s.dp.req.cmd = s'.dp.req.cmd ∧ s.operand = s'.operand ∧
      ∀ i, nanTransaction i s.operand = false := by
  refine ⟨by decide, by decide, ?_⟩
  intro i; cases i <;> decide

theorem witness_ErrorsNameTheirCommand :
    answerOf (exec .encS8 (serving 0x00#8 (.other 0))) =
      some (.err 0x00#8 (.type .int (.other 0))) := by decide

theorem witness_DatapathRefinesExec :
    PresentedOn (.float32 0x7FC00000#32) (serving 0x14#8 (.float32 0x7FC00000#32)).dp.req := by
  unfold PresentedOn; decide

/-- A cycle of channel 0 that presents `cmd` and `v`. -/
def requestCycle (cmd : Cmd) (v : HostValue) (rspReady : Bool) : HostEvent :=
  .cycle 0 { reqValid := true, req := drive cmd v, rspReady := rspReady }

/-- The machine past the delay after reset, its channel 0 holding `entries`, about to run `events`. -/
def readyState (entries : List InFlight) (events : List HostEvent) : State :=
  { State.reset with
    channels := [{ Channel.reset.makeReady with inflight := entries }], script := events }

theorem witness_StepRunsTheDecodedInstruction :
    let s := readyState [] [requestCycle 0x08#8 (.int (-3332)) true]
    s.live = true ∧ s.channels[0]? = some { Channel.reset.makeReady with inflight := [] } ∧
      Channel.canAccept { Channel.reset.makeReady with inflight := [] } = true ∧
      Sys2Proof.decode 0x08#8 = .ok .encS16 ∧ (Instr.encS16).wf = true := by
  refine ⟨rfl, rfl, ?_, ?_, ?_⟩ <;> decide

theorem witness_ProgramStepRunsTheDecodedInstruction :
    let c : Channel := { Channel.reset.makeReady with program := [drive 0x03#8 (.bytes [0xC8#8])] }
    let s : State := { State.reset with channels := [c] }
    s.live = true ∧ s.script = [] ∧ s.channels[s.turn]? = some c ∧
      c.program = [drive 0x03#8 (.bytes [0xC8#8])] ∧ c.canAccept = true ∧
      Sys2Proof.decode (drive 0x03#8 (.bytes [0xC8#8])).cmd = .ok .decU8 := by
  refine ⟨rfl, rfl, rfl, rfl, ?_, ?_⟩ <;> decide

theorem witness_StepAnswersAnIllegalWord :
    Channel.canAccept { Channel.reset.makeReady with inflight := [] } = true ∧
      Sys2Proof.decode 0x06#8 = .error .reservedKind := by decide

theorem witness_ChannelsDoNotTouchEachOther :
    goesOn (step (readyState [] [requestCycle 0x06#8 (.other 0) true])) = true ∧
      (readyState [] [requestCycle 0x06#8 (.other 0) true]).script =
        requestCycle 0x06#8 (.other 0) true :: [] ∧ (1 : Nat) ≠ 0 := by
  refine ⟨?_, rfl, ?_⟩ <;> decide

/-- An in-flight list of FIFO_DEPTH entries. -/
def fullList : List InFlight :=
  List.replicate Config.fifoDepth { req := ReqPorts.zero, rsp := .ok (.int 0), wait := 0 }

theorem witness_FullListIsNotReady :
    let s := readyState fullList [requestCycle 0x08#8 (.int 0) false]
    s.live = true ∧ s.channels[0]? = some { Channel.reset.makeReady with inflight := fullList } ∧
      Config.fifoDepth ≤ fullList.length := by
  refine ⟨rfl, rfl, ?_⟩
  simp [fullList]

/-- `readyState` begins with a cycle of channel 0, its one channel. -/
theorem readyState_cycleOf (entries : List InFlight) (inp : ChanIn) :
    CycleOf (readyState entries [.cycle 0 inp]) 0
      { Channel.reset.makeReady with inflight := entries } inp :=
  ⟨rfl, rfl, .inl ⟨[], rfl⟩⟩

/-- The four ways not to accept: no request, the first cycle, the delay, a full list. -/
theorem witness_NothingIsAcceptedOutsideAHandshake_idle :
    CycleOf (readyState [] [.cycle 0 ChanIn.zero]) 0
      { Channel.reset.makeReady with inflight := [] } ChanIn.zero ∧
      ChanIn.zero.reqValid = false :=
  ⟨readyState_cycleOf _ _, rfl⟩

theorem witness_NothingIsAcceptedOutsideAHandshake_fresh :
    let s : State := { State.reset with channels := [Channel.reset] }
    CycleOf s 0 Channel.reset Channel.reset.programIn ∧ Channel.reset.fresh = true :=
  ⟨⟨rfl, rfl, .inr ⟨rfl, rfl, rfl⟩⟩, rfl⟩

theorem witness_NothingIsAcceptedOutsideAHandshake_delay :
    let c : Channel := { Channel.reset with fresh := false, startup := 1 }
    let s : State := { State.reset with channels := [c] }
    CycleOf s 0 c c.programIn ∧ 0 < c.startup :=
  ⟨⟨rfl, rfl, .inr ⟨rfl, rfl, rfl⟩⟩, Nat.one_pos⟩

theorem witness_NothingIsAcceptedOutsideAHandshake_full :
    CycleOf (readyState fullList [.cycle 0 ChanIn.zero]) 0
      { Channel.reset.makeReady with inflight := fullList } ChanIn.zero ∧
      Config.fifoDepth ≤ fullList.length :=
  ⟨readyState_cycleOf _ _, by simp [fullList]⟩

/-- An empty list that a request joins, which the cycle accepts. -/
theorem witness_ACycleServesTheOldestEntry_joins :
    let inp : ChanIn := { reqValid := true, req := drive 0x08#8 (.int (-3332)), rspReady := true }
    CycleOf (readyState [] [.cycle 0 inp]) 0 { Channel.reset.makeReady with inflight := [] } inp ∧
      (inp.reqValid && Channel.canAccept { Channel.reset.makeReady with inflight := [] }) = true :=
  ⟨readyState_cycleOf _ _, by decide⟩

/-- An entry with one cycle to wait: nothing is presented, and the wait is over in the next cycle. -/
theorem witness_ACycleServesTheOldestEntry_waits :
    (match step (readyState [{ req := ReqPorts.zero, rsp := .ok (.int 5), wait := 1 }]
        [.cycle 0 { ChanIn.zero with rspReady := true }]) with
      | .next t => t.channels.head?.map fun c => (c.rspValid, c.inflight.map InFlight.wait)
      | _ => none) = some (false, [0]) := by decide

/-- The oldest of two entries is due and taken: its value stands on the ports. -/
theorem witness_ACycleServesTheOldestEntry_delivers :
    (match step (readyState
        [{ req := ReqPorts.zero, rsp := .ok (.int 5), wait := 0 },
          { req := ReqPorts.zero, rsp := .ok (.int 6), wait := 0 }]
        [.cycle 0 { ChanIn.zero with rspReady := true }]) with
      | .next t => t.channels.head?.map fun c =>
          (c.rspValid, c.rsp.rspInt, c.delivered.map Prod.snd, c.inflight.length)
      | _ => none) = some (true, 5#66, [.ok (.int 5)], 1) := by decide

/-- One response that is due and that the host does not take for two cycles. -/
def heldState : State :=
  { readyState [{ req := ReqPorts.zero, rsp := .ok (.int 5), wait := 0 }] [] with
    script := [.cycle 0 ChanIn.zero, .cycle 0 ChanIn.zero] }

theorem witness_UntakenResponseIsHeld :
    (match step heldState with
      | .next t => (t.channels.head?.map fun c => c.rspValid, goesOn (step t))
      | _ => (none, false)) = (some true, true) ∧ ChanIn.zero.rspReady = false := by decide

theorem witness_ResetCycleDiscardsEverything :
    ({ State.powerUp with script := [.reset []] } : State).script = .reset [] :: [] := rfl

theorem witness_ReadyAfterTheDelay : ChanIn.zero.reqValid = false := by decide

theorem witness_ReadyAfterTheDelay_reset :
    ({ State.powerUp with script := [.reset []] } : State).script = .reset [] :: [] ∧
      goesOn (step { State.powerUp with script := [.reset []] }) = true := ⟨rfl, rfl⟩

theorem witness_ReadyAfterTheDelay_first :
    let s : State := { State.reset with channels := [Channel.reset] }
    CycleOf s 0 Channel.reset Channel.reset.programIn ∧ Channel.reset.fresh = true ∧
      Channel.reset.inflight = [] :=
  ⟨⟨rfl, rfl, .inr ⟨rfl, rfl, rfl⟩⟩, rfl, rfl⟩

theorem witness_NoStepBeforeTheFirstReset :
    State.powerUp.live = false ∧ ∀ d rest, State.powerUp.script ≠ .reset d :: rest := by
  refine ⟨rfl, ?_⟩
  intro d rest h
  exact List.noConfusion rfl (heq_of_eq h)

/-- A machine of CHANNELS idle channels, all right, past its first cycle: not the reset state. -/
def quietState : State :=
  { State.reset with
    channels := List.replicate Config.channels { Channel.reset with fresh := false }, free := 1 }

theorem witness_invariant_holds_somewhere : StateInv quietState where
  channelCount := by simp [quietState]
  datapathIdle := rfl
  turnInRange := by simp [quietState, State.reset, Config.channels]
  channelsRight := by
    intro c hc
    obtain rfl := List.eq_of_mem_replicate hc
    constructor <;> simp [Channel.reset, Config.fifoDepth]

theorem witness_EveryStepKeepsTheInvariant : goesOn (step quietState) = true := by decide

theorem witness_TheBlockNeverStops :
    quietState.live = true ∧
      ∀ k inp rest, quietState.script = .cycle k inp :: rest → k < quietState.channels.length := by
  refine ⟨rfl, ?_⟩
  intro k inp rest h
  exact List.noConfusion rfl (heq_of_eq h)

theorem witness_EveryRunEndsFullyAnswered : quietState.live = true ∧ quietState.script = [] :=
  ⟨rfl, rfl⟩

end Sys2Proof.Tests
end

/-!
PROOFS. The number of a key: the order of keys of equal length (00_scope R15), and what a key reads
back as (20_memory R41, R42).
-/

namespace Sys2Proof.Proofs

open Sys2Proof.Machine

/-! ### The order of keys -/

/-- Two numbers written as a leading digit and a rest in base `N` compare by the leading digit first. -/
theorem leadingDigit_lt_iff {a b x y N : Nat} (hx : x < N) (hy : y < N) :
    a * N + x < b * N + y ↔ a < b ∨ (a = b ∧ x < y) := by
  rcases lt_trichotomy a b with h | rfl | h
  · have : (a + 1) * N ≤ b * N := Nat.mul_le_mul_right N h
    rw [Nat.add_one_mul] at this
    omega
  · omega
  · have : (b + 1) * N ≤ a * N := Nat.mul_le_mul_right N h
    rw [Nat.add_one_mul] at this
    omega

/-- Keys of equal length sort as their numbers do (00_scope R15). -/
theorem lexLt_iff_fromBE_lt {a b : List Byte} (h : a.length = b.length) :
    lexLt a b ↔ fromBE a < fromBE b := by
  induction a generalizing b with
  | nil =>
    obtain rfl := List.eq_nil_of_length_eq_zero h.symm
    simp [lexLt]
  | cons x xs ih =>
    cases b with
    | nil => simp at h
    | cons y ys =>
      have hlen : xs.length = ys.length := by simpa using h
      have hys : fromBE ys < 256 ^ xs.length := hlen ▸ fromBE_lt ys
      rw [fromBE_cons, fromBE_cons, ← hlen, leadingDigit_lt_iff (fromBE_lt xs) hys]
      simp only [lexLt, ih hlen, BitVec.toNat_inj]

/-- Settles O9, by induction on the bytes: the first byte carries more weight than all later ones
together. -/
theorem lexOrderIsNumericOrder : Obligations.LexOrderIsNumericOrder := by
  unfold Obligations.LexOrderIsNumericOrder
  intro a b h
  exact lexLt_iff_fromBE_lt h

/-! ### A key and its number -/

/-- The low `m` bytes of a pattern, the most significant first, have the pattern's number modulo
256^m. -/
theorem fromBE_lowBytes {w : Nat} (e : BitVec w) (m : Nat) :
    fromBE ((List.range m).map fun i => e.extractLsb' (8 * (m - 1 - i)) 8) =
      e.toNat % 256 ^ m := by
  induction m with
  | zero => simp [Nat.mod_one]
  | succ m ih =>
    have hrest : (List.range m).map
          ((fun i => e.extractLsb' (8 * (m + 1 - 1 - i)) 8) ∘ Nat.succ) =
        (List.range m).map fun i => e.extractLsb' (8 * (m - 1 - i)) 8 := by
      refine List.map_congr_left fun i _ => ?_
      rw [Function.comp_apply, show m + 1 - 1 - i.succ = m - 1 - i by omega]
    rw [List.range_succ_eq_map, List.map_cons, List.map_map, hrest, fromBE_cons, ih,
      Nat.mod_pow_succ]
    have hfirst : (e.extractLsb' (8 * (m + 1 - 1 - 0)) 8).toNat = e.toNat / 256 ^ m % 256 := by
      simp [Nat.shiftRight_eq_div_pow, pow_mul]
    rw [hfirst, List.length_map, List.length_range]
    ring

/-- A key's number is the pattern it was made from (20_memory R41, R42). -/
theorem fromBE_toBE {w : Nat} (hw : 8 ∣ w) (e : BitVec w) : fromBE (toBE e) = e.toNat := by
  obtain ⟨m, rfl⟩ := hw
  have hbytes : toBE e = (List.range m).map fun i => e.extractLsb' (8 * (m - 1 - i)) 8 := by
    rw [toBE, Nat.mul_div_cancel_left m (by decide : 0 < 8)]
    refine List.map_congr_left fun i _ => ?_
    rw [show 8 * m - 8 - 8 * i = 8 * (m - 1 - i) by omega]
  have hlt : e.toNat < 256 ^ m := by simpa [pow_mul] using e.isLt
  rw [hbytes, fromBE_lowBytes, Nat.mod_eq_of_lt hlt]

/-- A key of W/8 bytes fits its pattern. -/
theorem fromBE_lt_two_pow {w : Nat} (hw : 8 ∣ w) {bs : List Byte} (h : bs.length = w / 8) :
    fromBE bs < 2 ^ w := by
  obtain ⟨m, rfl⟩ := hw
  have hm : bs.length = m := by omega
  simpa [hm, pow_mul] using fromBE_lt bs

/-- The pattern of a key of W/8 bytes has the key's number. -/
theorem toNat_ofNat_fromBE {w : Nat} (hw : 8 ∣ w) {bs : List Byte} (h : bs.length = w / 8) :
    (BitVec.ofNat w (fromBE bs)).toNat = fromBE bs := by
  rw [BitVec.toNat_ofNat, Nat.mod_eq_of_lt (fromBE_lt_two_pow hw h)]

end Sys2Proof.Proofs

/-!
PROOFS. The transforms of the integer codecs as arithmetic, the whole rule of an integer encode or
decode from its body, once for every width, and the four 32-bit operations (00_scope R4).
-/

namespace Sys2Proof.Proofs

open Sys2Proof.Machine

/-! ### The transforms -/

/-- Flipping the top bit of a (k+1)-bit number adds 2^k to it or takes 2^k off. -/
theorem xor_topBit {k x : Nat} (hx : x < 2 ^ (k + 1)) :
    x ^^^ 2 ^ k = if x < 2 ^ k then x + 2 ^ k else x - 2 ^ k := by
  have hlow : (x ^^^ 2 ^ k) % 2 ^ k = x % 2 ^ k := by simp [Nat.xor_mod_two_pow]
  have htop : (x ^^^ 2 ^ k) / 2 ^ k = x / 2 ^ k ^^^ 1 := by simp [Nat.xor_div_two_pow]
  have hy := Nat.div_add_mod (x ^^^ 2 ^ k) (2 ^ k)
  rw [hlow, htop] at hy
  rw [pow_succ] at hx
  split
  case isTrue h =>
    rw [Nat.div_eq_of_lt h, Nat.mod_eq_of_lt h, Nat.zero_xor] at hy
    omega
  case isFalse h =>
    have h1 : x / 2 ^ k = 1 := Nat.div_eq_of_lt_le (by omega) (by omega)
    have hx' := Nat.div_add_mod x (2 ^ k)
    rw [h1] at hx'
    rw [h1, Nat.xor_self] at hy
    omega

/-- `SIGNBIT_W` is the number 2^(W−1) (00_scope R12). -/
@[simp] theorem toNat_signBit {w : Nat} (hw : 0 < w) : (signBit w).toNat = 2 ^ (w - 1) := by
  rw [signBit, BitVec.toNat_ofNat, Nat.mod_eq_of_lt (Nat.pow_lt_pow_right (by decide) (by omega))]

/-- `SENC_W` on the pattern's number (40_signed_int R100, first form). -/
theorem toNat_senc {w : Nat} (hw : 0 < w) (v : Int) :
    (senc w v).toNat = (v % 2 ^ w).toNat ^^^ 2 ^ (w - 1) := by
  simp [senc, hw, BitVec.toNat_ofInt]

/-- On the codec's bounds `SENC_W` adds 2^(W−1), with no wrap (40_signed_int R100). -/
theorem toNat_senc_eq_add {w : Nat} (hw : 0 < w) {v : Int} (h1 : -2 ^ (w - 1) ≤ v)
    (h2 : v ≤ 2 ^ (w - 1) - 1) : ((senc w v).toNat : Int) = v + 2 ^ (w - 1) := by
  obtain ⟨k, rfl⟩ : ∃ k, w = k + 1 := ⟨w - 1, by omega⟩
  rw [Nat.add_sub_cancel] at h1 h2 ⊢
  have hcast : ((2 ^ k : Nat) : Int) = 2 ^ k := by simp
  have hpow : (2 : Int) ^ (k + 1) = 2 * 2 ^ k := by rw [pow_succ, mul_comm]
  have hmod : v % 2 ^ (k + 1) = if 0 ≤ v then v else v + 2 ^ (k + 1) := by
    split
    case isTrue h => exact Int.emod_eq_of_lt h (by omega)
    case isFalse h => rw [← Int.add_emod_right, Int.emod_eq_of_lt (by omega) (by omega)]
  have hlt : (v % 2 ^ (k + 1)).toNat < 2 ^ (k + 1) := by
    split at hmod <;> omega
  rw [toNat_senc hw, Nat.add_sub_cancel, xor_topBit hlt]
  split at hmod <;> split <;> omega

/-- `SDEC_W` takes 2^(W−1) off (40_signed_int R101). -/
theorem sdec_eq_sub {w : Nat} (hw : 0 < w) (e : BitVec w) :
    sdec e = (e.toNat : Int) - 2 ^ (w - 1) := by
  obtain ⟨k, rfl⟩ : ∃ k, w = k + 1 := ⟨w - 1, by omega⟩
  have he := e.isLt
  rw [sdec, BitVec.toInt_eq_toNat_cond, BitVec.toNat_xor, toNat_signBit hw, Nat.add_sub_cancel,
    xor_topBit he]
  have hcast : ((2 ^ k : Nat) : Int) = 2 ^ k := by simp
  rw [pow_succ] at he ⊢
  split <;> split <;> omega

/-- `UENC_W` leaves a value in the codec's bounds as it is (41_unsigned_int R120). -/
theorem toNat_uenc {w : Nat} {v : Int} (h1 : 0 ≤ v) (h2 : v < 2 ^ w) :
    ((uenc w v).toNat : Int) = v := by
  rw [uenc, BitVec.toNat_ofInt]
  push_cast
  rw [Int.emod_eq_of_lt h1 h2, Int.toNat_of_nonneg h1]

/-! ### The response ports of an OK response (10_state R30) -/

/-- A key of W/8 bytes stands on its ports with W/8 as its count. -/
theorem keyPorts_of_length {w : Nat} (hw : w ≤ 64) {bs : List Byte} (h : bs.length = w / 8) :
    KeyPorts w bs := by
  have hlen : lenPort bs.length = BitVec.ofNat 32 (w / 8) := by
    rw [lenPort, h, Nat.min_eq_left (by omega)]
  simp only [KeyPorts, responsePorts, resultPorts, hlen]
  rfl

/-- An integer result stands on `rsp_int` alone. -/
theorem responsePorts_int (v : Int) :
    responsePorts (.ok (.int v)) =
      { RspPorts.zero with rspStatus := 0b00#2, rspTag := 0b000#3, rspInt := BitVec.ofInt 66 v } :=
  rfl

/-! ### The whole rule from the body -/

/-- An operation whose body checks an integer against `lo` and `hi` and answers the key of `enc v`
meets the whole rule of an integer encode. -/
theorem intEncodeRule_of_body {i : Instr} {cmd : Cmd} {w : Nat} {lo hi : Int}
    {Pattern : Int → Nat → Prop} {enc : Int → BitVec w} (hdvd : 8 ∣ w) (hw : w ≤ 64)
    (hword : Sys2Proof.decode cmd = .ok i)
    (hbody : ∀ s : State, exec i s = afterCheck cmd (validateEncInt s.operand lo hi)
      (fun v => respond (.bytes (toBE (enc v))) s) s)
    (hpattern : ∀ v, lo ≤ v → v ≤ hi → Pattern v (enc v).toNat) :
    IntEncodeRule i cmd w lo hi Pattern := by
  refine ⟨hword, fun v h1 h2 => ?inBounds, fun s v hop hv => ?outOfBounds,
    fun s neg hop => ?beyondPort, fun s htag => ?otherTag⟩
  case inBounds =>
    have hkey : EncodesTo i (intOp v) (toBE (enc v)) := fun s hop => by
      rw [hbody, hop, intOp, validateEncInt_in h1 h2, afterCheck_ok, respond_eq]
    have hnumber : Pattern v (fromBE (toBE (enc v))) := by
      rw [fromBE_toBE hdvd]
      exact hpattern v h1 h2
    exact ⟨_, toBE_length _, hnumber, hkey, keyPorts_of_length hw (toBE_length _)⟩
  case outOfBounds => rw [hbody, hop, intOp, validateEncInt_out hv, afterCheck_error]
  case beyondPort => rw [hbody, hop, validateEncInt_beyond, afterCheck_error]
  case otherTag => rw [hbody, validateEncInt_tag lo hi htag, afterCheck_error]

/-- An operation whose body checks a key's count and answers `dec` of the key's pattern meets the whole
rule of an integer decode. -/
theorem intDecodeRule_of_body {i : Instr} {cmd : Cmd} {w : Nat} {Value : Nat → Int → Prop}
    {dec : BitVec w → Int} (hdvd : 8 ∣ w) (hword : Sys2Proof.decode cmd = .ok i)
    (hbody : ∀ s : State, exec i s = afterCheck cmd (validateDec s.operand w)
      (fun bs => respond (.int (dec (BitVec.ofNat w (fromBE bs)))) s) s)
    (hvalue : ∀ e : BitVec w, Value e.toNat (dec e)) :
    IntDecodeRule i cmd w Value := by
  refine ⟨hword, fun bs hlen => ?wholeKey, fun s len bs hop hne => ?otherLength,
    fun s htag => ?otherTag⟩
  case wholeKey =>
    have hresult : DecodesTo i bs (.int (dec (BitVec.ofNat w (fromBE bs)))) := fun s hop => by
      rw [hbody, hop, hlen, validateDec_ok, afterCheck_ok, respond_eq]
    have hv := hvalue (BitVec.ofNat w (fromBE bs))
    rw [toNat_ofNat_fromBE hdvd hlen] at hv
    exact ⟨_, hv, hresult, responsePorts_int _⟩
  case otherLength => rw [hbody, hop, validateDec_length bs hne, afterCheck_error]
  case otherTag => rw [hbody, validateDec_tag w htag, afterCheck_error]

/-! ### The 32-bit operations -/

/-- ENC.S32 (40_signed_int R105, INFERRED). -/
theorem encS32_rule : IntEncodeRule .encS32 0x10#8 32 (-2147483648) 2147483647
    (fun v e => e = (v % 2 ^ 32).toNat ^^^ 2 ^ 31 ∧ (e : Int) = v + 2 ^ 31) :=
  intEncodeRule_of_body (enc := senc 32) (by decide) (by decide) (by decide) (fun _ => rfl)
    fun v h1 h2 => ⟨toNat_senc (by decide) v, toNat_senc_eq_add (by decide) h1 h2⟩

/-- DEC.S32 (40_signed_int R109, INFERRED). -/
theorem decS32_rule : IntDecodeRule .decS32 0x11#8 32 (fun e v => v = (e : Int) - 2 ^ 31) :=
  intDecodeRule_of_body (by decide) (by decide) (fun _ => rfl) (sdec_eq_sub (by decide))

/-- ENC.U32 (41_unsigned_int R124, INFERRED). -/
theorem encU32_rule :
    IntEncodeRule .encU32 0x12#8 32 0 4294967295 (fun v e => (e : Int) = v) :=
  intEncodeRule_of_body (enc := uenc 32) (by decide) (by decide) (by decide) (fun _ => rfl)
    fun _ h1 h2 => toNat_uenc h1 (by omega)

/-- DEC.U32 (41_unsigned_int R128, INFERRED). -/
theorem decU32_rule : IntDecodeRule .decU32 0x13#8 32 (fun e v => v = e) :=
  intDecodeRule_of_body (dec := udec) (by decide) (by decide) (fun _ => rfl) fun _ => rfl

/-- Settles O21: each operation's body is the W-generic one at W = 32, and the transforms are the
arithmetic the rules state. -/
theorem inferredThirtyTwoBitRules : Obligations.InferredThirtyTwoBitRules := by
  unfold Obligations.InferredThirtyTwoBitRules
  exact ⟨encS32_rule, decS32_rule, encU32_rule, decU32_rule⟩

end Sys2Proof.Proofs

/-!
PROOFS. What the block reads from the request ports (10_state R28) and drives on the response ports
(10_state R30).
-/

namespace Sys2Proof.Proofs

open Sys2Proof.Machine Sys2Proof.Machine.Ref

/-! ### Reading the request ports -/

/-- A count and the number of its bytes determine a byte sequence (20_memory R42). -/
theorem fromBE_inj {a b : List Byte} (hlen : a.length = b.length) :
    fromBE a = fromBE b ↔ a = b := by
  refine ⟨fun h => ?_, congrArg fromBE⟩
  induction a generalizing b with
  | nil => exact (List.eq_nil_of_length_eq_zero hlen.symm).symm
  | cons x xs ih =>
    cases b with
    | nil => simp at hlen
    | cons y ys =>
      have htail : xs.length = ys.length := by simpa using hlen
      have hys : fromBE ys < 256 ^ xs.length := htail ▸ fromBE_lt ys
      rw [fromBE_cons, fromBE_cons, ← htail] at h
      have hlt := (leadingDigit_lt_iff (fromBE_lt xs) hys).not.1 h.not_lt
      have hgt := (leadingDigit_lt_iff hys (fromBE_lt xs)).not.1 h.not_gt
      have hfirst : x = y := BitVec.eq_of_toNat_eq (by omega)
      rw [hfirst, ih htail (by omega)]

/-- A count port carries every count up to 2^32 − 1 and saturates there. -/
@[simp] theorem toNat_lenPort (n : Nat) : (lenPort n).toNat = min n (2 ^ 32 - 1) := by
  rw [lenPort, BitVec.toNat_ofNat, Nat.mod_eq_of_lt (by omega)]

/-- A count saturated once stands on its port as the count itself does. -/
@[simp] theorem lenPort_saturated (n : Nat) : lenPort (min n (2 ^ 32 - 1)) = lenPort n := by
  simp [lenPort]

/-- The code of a tag reads back as the tag (30_encoding R65). -/
@[simp] theorem tagOfCode_tagCode (t : Tag) : tagOfCode (tagCode t) = t := by
  cases t with
  | other lo => revert lo; decide
  | _ => rfl

/-- The operand that the block reads of a host value: its ports carry no more (10_state R28). -/
def operandOf : HostValue → Operand
  | .int v => .int (portValue v)
  | .float32 b => .float32 b
  | .float64 b => .float64 b
  | .bytes bs =>
    if bs.length ≤ 8 then .bytes bs.length bs else .bytes (min bs.length (2 ^ 32 - 1)) []
  | .other lo => .other lo

@[simp] theorem operandOf_tag (v : HostValue) : (operandOf v).tag = v.tag := by
  cases v with
  | bytes bs => simp only [operandOf]; split <;> rfl
  | _ => rfl

/-- A presented integer is read with its value, or with its sign alone beyond the port. -/
theorem portInt_of_presented {v : Int} {p : ReqPorts} (h : IntOnPorts v p) :
    portInt p = portValue v := by
  unfold IntOnPorts at h
  unfold portInt portValue
  split at h
  case isTrue hfits =>
    obtain ⟨hoor, hint⟩ := h
    have hval : (BitVec.ofInt 66 v).toInt = v :=
      BitVec.toInt_ofInt_eq_self (by decide) (by simpa using hfits.1) (by simpa using hfits.2)
    simp only [hoor, hint, hval, if_pos hfits, Bool.false_eq_true, if_false]
  case isFalse hout =>
    obtain ⟨hoor, hneg⟩ := h
    simp only [hoor, hneg, if_neg hout, if_true]

/-- A presented byte sequence of at most 8 bytes is read whole; of a longer one only the count. -/
theorem portBytes_of_presented {bs : List Byte} {p : ReqPorts} (h : BytesOnPorts bs p) :
    Operand.bytes p.opLen.toNat (portBytes p.opLen.toNat p.opBytes) = operandOf (.bytes bs) := by
  obtain ⟨hlen, hbytes⟩ := h
  rw [hlen, toNat_lenPort, operandOf]
  split
  case isTrue hshort =>
    have hnumber : fromBE (portBytes bs.length p.opBytes) = fromBE bs := by
      rw [portBytes, if_pos hshort, fromBE_lowBytes, hbytes hshort]
    rw [Nat.min_eq_left (by omega), (fromBE_inj (by simp [portBytes, hshort])).1 hnumber]
  case isFalse hlong =>
    rw [portBytes, if_neg (by omega)]

/-- The block reads of a host value what the ports carry of it, and nothing of other ports. -/
theorem portOperand_of_presented {v : HostValue} {p : ReqPorts} (h : PresentedOn v p) :
    portOperand p = operandOf v := by
  obtain ⟨htag, hports⟩ := h
  unfold portOperand
  rw [htag, tagOfCode_tagCode]
  cases v with
  | int v => exact congrArg Operand.int (portInt_of_presented hports)
  | float32 b => exact congrArg Operand.float32 hports
  | float64 b => exact congrArg Operand.float64 hports
  | bytes bs => exact portBytes_of_presented hports
  | other lo => rfl

/-- Settles O37, by the tag of the host value: the byte lane holds the number of the bytes, and the
number and the count determine them. -/
theorem portsAreReadAsPresented : Obligations.PortsAreReadAsPresented := by
  unfold Obligations.PortsAreReadAsPresented
  intro v p h
  rw [portOperand_of_presented h]
  cases v <;> rfl

/-! ### Driving the response ports -/

/-- Settles O39, row by row of the table: a row is `responsePorts` itself, once its side condition on
a bound or a count is used. -/
theorem responsePortsAreTheTable : Obligations.ResponsePortsAreTheTable := by
  unfold Obligations.ResponsePortsAreTheTable
  refine ⟨fun _ => rfl, fun b => ⟨?float32Bits, rfl⟩, fun _ => rfl, fun bs hlen => ?key,
    fun _ _ _ => rfl, fun c v lo hi h1 h2 => ?valueFits, fun c v lo hi h => ?valueUnfit,
    fun _ _ _ _ => rfl, fun c x a hx => ?length, fun _ _ _ => rfl, fun _ => rfl⟩
  case float32Bits => exact BitVec.toNat_setWidth_of_le (by decide)
  case key =>
    have hport : lenPort bs.length = BitVec.ofNat 32 bs.length := by
      rw [lenPort, Nat.min_eq_left (by omega)]
    simp only [responsePorts, resultPorts, hport]
    rfl
  case valueFits => exact withErrValue_fits _ h1 (by omega)
  case valueUnfit => exact withErrValue_unfit _ (by omega)
  case length =>
    simp only [responsePorts, errorPorts, expectedLenPort_fits hx]
    rfl

end Sys2Proof.Proofs

/-!
PROOFS. The transforms of the float codecs as arithmetic on the pattern (42_float R141 to R144, R156),
and the whole rules of the sixteen integer operations and the four float operations.
-/

namespace Sys2Proof.Proofs

open Sys2Proof.Machine

/-! ### The float transforms -/

/-- `FENC_W` on the pattern's number (42_float R143). -/
theorem toNat_fenc {w : Nat} (hw : 0 < w) (r : BitVec w) :
    (fenc r).toNat =
      if 2 ^ (w - 1) ≤ r.toNat then 2 ^ w - 1 - r.toNat else r.toNat + 2 ^ (w - 1) := by
  rw [fenc, BitVec.msb_eq_decide]
  by_cases h : 2 ^ (w - 1) ≤ r.toNat
  · simp [h]
  · have hor := Nat.two_pow_add_eq_or_of_lt (Nat.lt_of_not_le h) 1
    rw [Nat.mul_one, Nat.lor_comm] at hor
    simp [h, hw, ← hor, Nat.add_comm]

/-- `FDEC_W` on the key's number (42_float R144). -/
theorem toNat_fdec {w : Nat} (hw : 0 < w) (e : BitVec w) :
    (fdec e).toNat = Ref.floatValue w e.toNat := by
  obtain ⟨k, rfl⟩ : ∃ k, w = k + 1 := ⟨w - 1, by omega⟩
  have he := e.isLt
  rw [fdec, Ref.floatValue, BitVec.msb_eq_decide, Nat.add_sub_cancel]
  by_cases h : 2 ^ k ≤ e.toNat
  · have hmask : 2 ^ (k + 1) - 1 - 2 ^ k = 2 ^ k - 1 := by rw [pow_succ]; omega
    have hmod : e.toNat % 2 ^ k = e.toNat - 2 ^ k := by
      rw [pow_succ] at he
      rw [Nat.mod_eq_sub_mod h, Nat.mod_eq_of_lt (by omega)]
    simp [h, hmask, hmod]
  · simp [h]

/-- Every pattern's key, −0.0 taking the key of +0.0 (42_float R142, R143). -/
theorem toNat_fenc_canonZero {w : Nat} (hw : 0 < w) (r : BitVec w) :
    (fenc (canonZero r)).toNat = Ref.floatKey w r.toNat := by
  rw [toNat_fenc hw, canonZero, Ref.floatKey]
  by_cases hz : r = signBit w
  · simp [hz, hw]
  · have hne : r.toNat ≠ 2 ^ (w - 1) := fun h =>
      hz (BitVec.eq_of_toNat_eq (h.trans (toNat_signBit hw).symm))
    simp [hz, hne]

/-- A NaN by the fields of the pattern's number (00_scope R16, 42_float R141). -/
theorem isNaN_iff {w : Nat} (r : BitVec w) : isNaN r = true ↔
    r.toNat / 2 ^ fractionBits w % 2 ^ exponentBits w = 2 ^ exponentBits w - 1 ∧
      r.toNat % 2 ^ fractionBits w ≠ 0 := by
  simp [isNaN, exponent, fraction, ← BitVec.toNat_inj, Nat.shiftRight_eq_div_pow]

/-- The NaN patterns of binary32 are the ranges of 42_float R141. -/
theorem isNaN_eq_nanPattern32 (r : BitVec 32) : isNaN r = Ref.nanPattern 32 r.toNat := by
  rw [Bool.eq_iff_iff, isNaN_iff]
  simp only [Ref.nanPattern, fractionBits, exponentBits, Nat.reduceEqDiff, ↓reduceIte,
    Nat.reducePow, Nat.add_one_sub_one, Nat.reduceSub, ne_eq, Bool.or_eq_true, Bool.and_eq_true,
    decide_eq_true_eq]
  omega

/-- The NaN patterns of binary64 are the ranges of 42_float R141. -/
theorem isNaN_eq_nanPattern64 (r : BitVec 64) : isNaN r = Ref.nanPattern 64 r.toNat := by
  rw [Bool.eq_iff_iff, isNaN_iff]
  simp only [Ref.nanPattern, fractionBits, exponentBits, Nat.reduceEqDiff, ↓reduceIte,
    Nat.reducePow, Nat.add_one_sub_one, Nat.reduceSub, ne_eq, Bool.or_eq_true, Bool.and_eq_true,
    decide_eq_true_eq]
  omega

/-- The keys that decode to a NaN pattern of binary32 are the ranges of 42_float R156. -/
theorem nanPattern_floatValue32 {e : Nat} (he : e < 2 ^ 32) :
    Ref.nanPattern 32 (Ref.floatValue 32 e) = Ref.nanKey 32 e := by
  rw [Bool.eq_iff_iff]
  simp only [Ref.nanPattern, Ref.nanKey, Ref.floatValue, ↓reduceIte, Nat.reducePow,
    Nat.add_one_sub_one, Bool.or_eq_true, Bool.and_eq_true, decide_eq_true_eq]
  split <;> omega

/-- The keys that decode to a NaN pattern of binary64 are the ranges of 42_float R156. -/
theorem nanPattern_floatValue64 {e : Nat} (he : e < 2 ^ 64) :
    Ref.nanPattern 64 (Ref.floatValue 64 e) = Ref.nanKey 64 e := by
  rw [Bool.eq_iff_iff]
  simp only [Ref.nanPattern, Ref.nanKey, Ref.floatValue, Nat.reduceEqDiff, ↓reduceIte,
    Nat.reducePow, Nat.add_one_sub_one, Bool.or_eq_true, Bool.and_eq_true, decide_eq_true_eq]
  split <;> omega

/-- A decoded float is a W-bit pattern. -/
theorem floatValue_lt {w e : Nat} (he : e < 2 ^ w) : Ref.floatValue w e < 2 ^ w := by
  unfold Ref.floatValue
  split
  · exact (Nat.sub_le _ _).trans_lt he
  · omega

/-- `FDEC_W` of a key of W/8 bytes, by the key's number. -/
theorem fdec_ofNat_fromBE {w : Nat} (hdvd : 8 ∣ w) (hw : 0 < w) {bs : List Byte}
    (h : bs.length = w / 8) :
    fdec (BitVec.ofNat w (fromBE bs)) = BitVec.ofNat w (Ref.floatValue w (fromBE bs)) := by
  apply BitVec.eq_of_toNat_eq
  rw [toNat_fdec hw, toNat_ofNat_fromBE hdvd h, BitVec.toNat_ofNat,
    Nat.mod_eq_of_lt (floatValue_lt (fromBE_lt_two_pow hdvd h))]

/-! ### The float rules from the bodies -/

/-- The body of a float encode on a pattern that is no NaN. -/
theorem floatEncode_number {w : Nat} (cmd : Cmd) {r : BitVec w} (s : State)
    (h : isNaN r = false) :
    floatEncode cmd r s = .next (s.answer (.ok (.bytes (toBE (fenc (canonZero r)))))) := by
  simp [floatEncode, h]

/-- The body of a float encode on a NaN (42_float R145). -/
theorem floatEncode_nan {w : Nat} (cmd : Cmd) {r : BitVec w} (s : State) (h : isNaN r = true) :
    floatEncode cmd r s =
      respondOpen cmd (fun x => .bytes (toBE x)) (fenc (canonZero r)) s := by
  simp [floatEncode, h]

/-- The body of a float decode of a key that gives no NaN. -/
theorem floatDecode_number {w : Nat} (cmd : Cmd) (wrap : BitVec w → Result) {bs : List Byte}
    (s : State) (h : isNaN (fdec (BitVec.ofNat w (fromBE bs))) = false) :
    floatDecode cmd wrap bs s =
      .next (s.answer (.ok (wrap (fdec (BitVec.ofNat w (fromBE bs)))))) := by
  simp [floatDecode, h]

/-- The body of a float decode of a key that gives a NaN (42_float R146). -/
theorem floatDecode_nan {w : Nat} (cmd : Cmd) (wrap : BitVec w → Result) {bs : List Byte}
    (s : State) (h : isNaN (fdec (BitVec.ofNat w (fromBE bs))) = true) :
    floatDecode cmd wrap bs s = respondOpen cmd wrap (fdec (BitVec.ofNat w (fromBE bs))) s := by
  simp [floatDecode, h]

/-- An operation whose body takes the operands `op r` and encodes the pattern `r` meets the whole rule
of a float encode. -/
theorem floatEncodeRule_of_body {i : Instr} {cmd : Cmd} {w : Nat} {op : BitVec w → Operand}
    {tag : Tag} {check : Operand → Except (ErrorInfo PortInt) (BitVec w)} (hdvd : 8 ∣ w)
    (hpos : 0 < w) (hw : w ≤ 64) (hword : Sys2Proof.decode cmd = .ok i)
    (hbody : ∀ s : State, exec i s =
      afterCheck cmd (check s.operand) (fun r => floatEncode cmd r s) s)
    (hok : ∀ r, check (op r) = .ok r)
    (htag : ∀ o : Operand, o.tag ≠ tag → check o = .error (.type tag o.tag)) :
    FloatEncodeRule i cmd w op tag := by
  have hnumber (r : BitVec w) : fromBE (toBE (fenc (canonZero r))) = Ref.floatKey w r.toNat := by
    rw [fromBE_toBE hdvd, toNat_fenc_canonZero hpos]
  refine ⟨hword, fun r hnan => ?number, fun s r hop hnan => ?nan, fun s ht => ?otherTag⟩
  case number =>
    have hkey : EncodesTo i (op r) (toBE (fenc (canonZero r))) := fun s hop => by
      rw [hbody, hop, hok, afterCheck_ok, floatEncode_number cmd s hnan]
    exact ⟨_, toBE_length _, hnumber r, hkey, keyPorts_of_length hw (toBE_length _)⟩
  case nan =>
    refine ⟨_, toBE_length _, hnumber r, ?_⟩
    rw [hbody, hop, hok, afterCheck_ok, floatEncode_nan cmd s hnan, fromBE_toBE hdvd,
      BitVec.ofNat_toNat, BitVec.setWidth_eq, respondOpen]
  case otherTag => rw [hbody, htag _ ht, afterCheck_error]

/-- An operation whose body checks a key's count and decodes the key's pattern meets the whole rule of
a float decode. -/
theorem floatDecodeRule_of_body {i : Instr} {cmd : Cmd} {w : Nat} {wrap : BitVec w → Result}
    (hdvd : 8 ∣ w) (hpos : 0 < w) (hw : w ≤ 64) (hword : Sys2Proof.decode cmd = .ok i)
    (hbody : ∀ s : State, exec i s = afterCheck cmd (validateDec s.operand w)
      (fun bs => floatDecode cmd wrap bs s) s) :
    FloatDecodeRule i cmd w wrap := by
  refine ⟨hword, fun bs hlen hnan s hop => ?number, fun s bs hop hnan => ?nan,
    fun s len bs hop hne => ?otherLength, fun s htag => ?otherTag⟩
  case number =>
    rw [← fdec_ofNat_fromBE hdvd hpos hlen] at hnan ⊢
    rw [hbody, hop, hlen, validateDec_ok, afterCheck_ok, floatDecode_number cmd wrap s hnan]
  case nan =>
    have hlen : bs.length = w / 8 := portOperand_bytes_length hop (by omega)
    rw [← fdec_ofNat_fromBE hdvd hpos hlen] at hnan ⊢
    rw [hbody, hop, validateDec_ok, afterCheck_ok, floatDecode_nan cmd wrap s hnan, respondOpen]
  case otherLength => rw [hbody, hop, validateDec_length bs hne, afterCheck_error]
  case otherTag => rw [hbody, validateDec_tag w htag, afterCheck_error]

/-! ### The rules of the operations -/

/-- What a signed key's number is (40_signed_int R100). -/
def SignedPattern (w : Nat) (v : Int) (e : Nat) : Prop :=
  e = (v % 2 ^ w).toNat ^^^ 2 ^ (w - 1) ∧ (e : Int) = v + 2 ^ (w - 1)

/-- The transform `SENC_W` gives the number of a signed key, on the codec's bounds. -/
theorem signedPattern_senc {w : Nat} (hw : 0 < w) {v : Int} (h1 : -2 ^ (w - 1) ≤ v)
    (h2 : v ≤ 2 ^ (w - 1) - 1) : SignedPattern w v (senc w v).toNat :=
  ⟨toNat_senc hw v, toNat_senc_eq_add hw h1 h2⟩

/-- ENC.S8 (40_signed_int R103). -/
theorem encS8_rule : IntEncodeRule .encS8 0x00#8 8 (-128) 127 (SignedPattern 8) :=
  intEncodeRule_of_body (enc := senc 8) (by decide) (by decide) (by decide) (fun _ => rfl)
    fun _ => signedPattern_senc (w := 8) (by decide)

/-- ENC.S16 (40_signed_int R104). -/
theorem encS16_rule : IntEncodeRule .encS16 0x08#8 16 (-32768) 32767 (SignedPattern 16) :=
  intEncodeRule_of_body (enc := senc 16) (by decide) (by decide) (by decide) (fun _ => rfl)
    fun _ => signedPattern_senc (w := 16) (by decide)

/-- ENC.S64 (40_signed_int R106). -/
theorem encS64_rule : IntEncodeRule .encS64 0x18#8 64 (-2 ^ 63) (2 ^ 63 - 1) (SignedPattern 64) :=
  intEncodeRule_of_body (enc := senc 64) (by decide) (by decide) (by decide) (fun _ => rfl)
    fun _ => signedPattern_senc (w := 64) (by decide)

/-- DEC.S8 (40_signed_int R107). -/
theorem decS8_rule : IntDecodeRule .decS8 0x01#8 8 (fun e v => v = (e : Int) - 2 ^ (8 - 1)) :=
  intDecodeRule_of_body (by decide) (by decide) (fun _ => rfl) (sdec_eq_sub (by decide))

/-- DEC.S16 (40_signed_int R108). -/
theorem decS16_rule : IntDecodeRule .decS16 0x09#8 16 (fun e v => v = (e : Int) - 2 ^ (16 - 1)) :=
  intDecodeRule_of_body (by decide) (by decide) (fun _ => rfl) (sdec_eq_sub (by decide))

/-- DEC.S64 (40_signed_int R110). -/
theorem decS64_rule : IntDecodeRule .decS64 0x19#8 64 (fun e v => v = (e : Int) - 2 ^ (64 - 1)) :=
  intDecodeRule_of_body (by decide) (by decide) (fun _ => rfl) (sdec_eq_sub (by decide))

/-- ENC.U8 (41_unsigned_int R122). -/
theorem encU8_rule : IntEncodeRule .encU8 0x02#8 8 0 255 (fun v e => (e : Int) = v) :=
  intEncodeRule_of_body (enc := uenc 8) (by decide) (by decide) (by decide) (fun _ => rfl)
    fun _ h1 h2 => toNat_uenc h1 (by omega)

/-- ENC.U16 (41_unsigned_int R123). -/
theorem encU16_rule : IntEncodeRule .encU16 0x0A#8 16 0 65535 (fun v e => (e : Int) = v) :=
  intEncodeRule_of_body (enc := uenc 16) (by decide) (by decide) (by decide) (fun _ => rfl)
    fun _ h1 h2 => toNat_uenc h1 (by omega)

/-- ENC.U64 (41_unsigned_int R125). -/
theorem encU64_rule : IntEncodeRule .encU64 0x1A#8 64 0 (2 ^ 64 - 1) (fun v e => (e : Int) = v) :=
  intEncodeRule_of_body (enc := uenc 64) (by decide) (by decide) (by decide) (fun _ => rfl)
    fun _ h1 h2 => toNat_uenc h1 (by omega)

/-- DEC.U8 (41_unsigned_int R126). -/
theorem decU8_rule : IntDecodeRule .decU8 0x03#8 8 (fun e v => v = e) :=
  intDecodeRule_of_body (dec := udec) (by decide) (by decide) (fun _ => rfl) fun _ => rfl

/-- DEC.U16 (41_unsigned_int R127). -/
theorem decU16_rule : IntDecodeRule .decU16 0x0B#8 16 (fun e v => v = e) :=
  intDecodeRule_of_body (dec := udec) (by decide) (by decide) (fun _ => rfl) fun _ => rfl

/-- DEC.U64 (41_unsigned_int R129). -/
theorem decU64_rule : IntDecodeRule .decU64 0x1B#8 64 (fun e v => v = e) :=
  intDecodeRule_of_body (dec := udec) (by decide) (by decide) (fun _ => rfl) fun _ => rfl

/-- ENC.F32 (42_float R149). -/
theorem encF32_rule : FloatEncodeRule .encF32 0x14#8 32 .float32 .float32 :=
  floatEncodeRule_of_body (by decide) (by decide) (by decide) (by decide) (fun _ => rfl)
    validateEncFloat32_ok fun _ => validateEncFloat32_tag

/-- ENC.F64 (42_float R150). -/
theorem encF64_rule : FloatEncodeRule .encF64 0x1C#8 64 .float64 .float64 :=
  floatEncodeRule_of_body (by decide) (by decide) (by decide) (by decide) (fun _ => rfl)
    validateEncFloat64_ok fun _ => validateEncFloat64_tag

/-- DEC.F32 (42_float R151). -/
theorem decF32_rule : FloatDecodeRule .decF32 0x15#8 32 .float32 :=
  floatDecodeRule_of_body (by decide) (by decide) (by decide) (by decide) fun _ => rfl

/-- DEC.F64 (42_float R152). -/
theorem decF64_rule : FloatDecodeRule .decF64 0x1D#8 64 .float64 :=
  floatDecodeRule_of_body (by decide) (by decide) (by decide) (by decide) fun _ => rfl

end Sys2Proof.Proofs

/-!
PROOFS. The datapath against the spec's function `Exec` (10_state R20): a whole rule of an operation
says what the operation answers, and that answer is the one of `Exec` for the operation's word.
-/

namespace Sys2Proof.Proofs

open Sys2Proof.Machine Sys2Proof.Machine.Ref

/-! ### `Exec` on keys -/

/-- The bytes of a key are its base-256 digits (20_memory R41). -/
theorem key_toNat {w : Nat} (hdvd : 8 ∣ w) (e : BitVec w) : key w e.toNat = toBE e := by
  obtain ⟨m, rfl⟩ := hdvd
  rw [key, toBE, Nat.mul_div_cancel_left m (by decide : 0 < 8)]
  refine List.map_congr_left fun i _ => BitVec.eq_of_toNat_eq ?_
  rw [show 8 * m - 8 - 8 * i = 8 * (m - 1 - i) by omega]
  simp [Nat.shiftRight_eq_div_pow, pow_mul]

/-- The digits of a key's number are the key. -/
theorem key_fromBE {w : Nat} (hdvd : 8 ∣ w) {bs : List Byte} (h : bs.length = w / 8) :
    key w (fromBE bs) = bs := by
  rw [← toNat_ofNat_fromBE hdvd h, key_toNat hdvd]
  apply (fromBE_inj _).1
  · rw [fromBE_toBE hdvd, toNat_ofNat_fromBE hdvd h]
  · rw [toBE_length, h]

/-- `Exec` reads the number of a key as the block does (20_memory R42). -/
theorem pattern_eq_fromBE (bs : List Byte) : pattern bs = fromBE bs := by
  induction bs with
  | nil => rfl
  | cons b bs ih => rw [pattern, fromBE_cons, ih]

/-! ### The shape of `Exec` by the fields of the word -/

theorem exists_int_of_tag {v : HostValue} (h : v.tag = .int) : ∃ n, v = .int n := by
  cases v with
  | int n => exact ⟨n, rfl⟩
  | _ => cases h

theorem exists_bytes_of_tag {v : HostValue} (h : v.tag = .bytes) : ∃ bs, v = .bytes bs := by
  cases v with
  | bytes bs => exact ⟨bs, rfl⟩
  | _ => cases h

/-- `cmd` is a legal word of direction `dir`, kind `kind` and width `w` (30_encoding R60, R61). -/
abbrev HasFields (cmd : Cmd) (dir kind w : Nat) : Prop :=
  legal cmd = true ∧ dirField cmd = dir ∧ kindField cmd = kind ∧ width cmd = w

section
variable {cmd : Cmd} {kind w : Nat} {v : HostValue}

theorem exec_eq_encodeInt (hf : HasFields cmd 0 kind w) (hkind : kind ≠ 2) :
    Exec cmd v = encodeInt cmd v := by
  obtain ⟨hlegal, hdir, hk, -⟩ := hf
  simp [Exec, hlegal, hdir, hk, hkind]

theorem exec_eq_encodeFloat (hf : HasFields cmd 0 2 w) : Exec cmd v = encodeFloat cmd v := by
  obtain ⟨hlegal, hdir, hk, -⟩ := hf
  simp [Exec, hlegal, hdir, hk]

theorem exec_eq_decodeKey (hf : HasFields cmd 1 kind w) : Exec cmd v = decodeKey cmd v := by
  obtain ⟨hlegal, hdir, -, -⟩ := hf
  simp [Exec, hlegal, hdir]

/-- The integer codecs have no NaN. -/
theorem nanCase_int {dir : Nat} (hf : HasFields cmd dir kind w) (hkind : kind ≠ 2) :
    nanCase cmd v = false := by
  obtain ⟨-, -, hk, -⟩ := hf
  simp [nanCase, hk, hkind]

/-- A float decode meets a NaN only in a key of its own length. -/
theorem nanCase_decode (hf : HasFields cmd 1 2 w) (bs : List Byte) :
    nanCase cmd (.bytes bs) = (bs.length == w / 8 && nanKey w (fromBE bs)) := by
  obtain ⟨hlegal, hdir, hk, hw⟩ := hf
  simp [nanCase, hlegal, hdir, hk, hw, pattern_eq_fromBE]

/-- A float decode of anything but bytes is no NaN case. -/
theorem nanCase_decode_tag (hf : HasFields cmd 1 kind w) (htag : v.tag ≠ .bytes) :
    nanCase cmd v = false := by
  obtain ⟨-, hdir, -, -⟩ := hf
  cases v with
  | bytes bs => exact absurd rfl htag
  | _ => simp [nanCase, hdir]

/-- A float encode of anything but its own format is no NaN case. -/
theorem nanCase_encode_tag (hf : HasFields cmd 0 kind w) (htag : v.tag ≠ floatTag w) :
    nanCase cmd v = false := by
  obtain ⟨-, hdir, -, hw⟩ := hf
  cases v with
  | float32 b =>
    have hne : w ≠ 32 := fun h => htag (by simp [h, floatTag, HostValue.tag])
    simp [nanCase, hw, hne]
  | float64 b =>
    have hne : w ≠ 64 := fun h => htag (by simp [h, floatTag, HostValue.tag])
    simp [nanCase, hw, hne]
  | _ => simp [nanCase, hdir]

/-- `Exec` of an integer encode raises TypeKind on every other tag. -/
theorem encodeInt_tag (htag : v.tag ≠ .int) : encodeInt cmd v = .err cmd (.type .int v.tag) := by
  cases v with
  | int n => exact absurd rfl htag
  | _ => rfl

/-- `Exec` of a float encode raises TypeKind on every other tag. -/
theorem encodeFloat_tag (hf : HasFields cmd 0 2 w) (htag : v.tag ≠ floatTag w) :
    encodeFloat cmd v = .err cmd (.type (floatTag w) v.tag) := by
  obtain ⟨-, -, -, rfl⟩ := hf
  cases v with
  | float32 b => exact if_neg fun h => htag (by simp [h, floatTag, HostValue.tag])
  | float64 b => exact if_neg fun h => htag (by simp [h, floatTag, HostValue.tag])
  | _ => rfl

/-- `Exec` of a decode raises TypeKind on every other tag. -/
theorem decodeKey_tag (htag : v.tag ≠ .bytes) :
    decodeKey cmd v = .err cmd (.type .bytes v.tag) := by
  cases v with
  | bytes bs => exact absurd rfl htag
  | _ => rfl

/-- `Exec` of a decode raises RangeKind on every other count. -/
theorem decodeKey_length (hf : HasFields cmd 1 kind w) {bs : List Byte} (h : bs.length ≠ w / 8) :
    decodeKey cmd (.bytes bs) = .err cmd (.rangeLength (w / 8) bs.length) := by
  obtain ⟨-, -, -, rfl⟩ := hf
  exact if_pos h

end

/-! ### Right answers -/

/-- Outside the NaN cases a response is right when its ports are those of `Exec`. -/
theorem admits_of_ports {cmd : Cmd} {v : HostValue} {r : BlockResponse}
    (hnan : nanCase cmd v = false)
    (h : responsePorts r = responsePorts (blockResponse (Exec cmd v))) : Admits cmd v r := by
  simpa [Admits, hnan] using h

/-- In the NaN cases a response is right when DRAW allows it. -/
theorem admits_of_draw {cmd : Cmd} {v : HostValue} {r : BlockResponse}
    (hnan : nanCase cmd v = true) (h : DrawAllows cmd r) : Admits cmd v r := by
  simpa [Admits, hnan] using h

/-- A response that `NAN_POLICY` gives is one that DRAW allows, where the results are. -/
theorem drawAllows_openResponse {w : Nat} {policy : NanPolicy} {cmd : Cmd}
    {wrap : BitVec w → Result} {x : BitVec w} {d : NanDraw w}
    (h : ∀ y, DrawAllows cmd (.ok (wrap y))) :
    DrawAllows cmd (openResponse policy cmd wrap x d) := by
  cases policy with
  | mechanical => exact h x
  | draw =>
    cases d with
    | answer y => exact h y
    | error e => exact .inl ⟨e, rfl⟩

/-- `i` answers the operand of every host value with a right response to `cmd`. -/
def RefinesExec (i : Instr) (cmd : Cmd) : Prop :=
  ∀ (s : State) (v : HostValue), s.operand = operandOf v →
    ∃ t r, exec i s = .next t ∧ t.dp.rsp = some r ∧ Admits cmd v r

section
variable {i : Instr} {cmd : Cmd} {w : Nat} {s : State}

/-- TypeKind on every other tag is right where `Exec` raises it too. -/
theorem refines_otherTag {v : HostValue} {required : Tag} (hs : s.operand = operandOf v)
    (hrule : RejectsOtherTags i cmd required) (htag : v.tag ≠ required)
    (hnan : nanCase cmd v = false) (hexec : Exec cmd v = .err cmd (.type required v.tag)) :
    ∃ t r, exec i s = .next t ∧ t.dp.rsp = some r ∧ Admits cmd v r := by
  have hop : s.operand.tag = v.tag := by rw [hs, operandOf_tag]
  refine ⟨_, _, hrule s (hop ▸ htag), rfl, admits_of_ports hnan ?_⟩
  rw [hexec, hop]
  rfl

/-- The operand of a byte sequence has its count, saturated. -/
theorem operandOf_bytes (bs : List Byte) :
    ∃ bs', operandOf (.bytes bs) = .bytes (min bs.length (2 ^ 32 - 1)) bs' := by
  simp only [operandOf]
  split
  case isTrue h => exact ⟨bs, by rw [Nat.min_eq_left (by omega)]⟩
  case isFalse h => exact ⟨[], rfl⟩

/-- A key of W/8 bytes is read whole. -/
theorem operandOf_key (hw : w ≤ 64) {bs : List Byte} (h : bs.length = w / 8) :
    operandOf (.bytes bs) = .bytes bs.length bs := if_pos (by omega)

/-- A decode that rejects every other count, and every other tag, is right on all of them: the count on
the ports saturates as the count of `Exec` does on its port. -/
theorem refines_notAKey {v : HostValue} {kind : Nat} (hs : s.operand = operandOf v) (hw : w ≤ 64)
    (hf : HasFields cmd 1 kind w) (hlengths : RejectsOtherLengths i cmd w)
    (htags : RejectsOtherTags i cmd .bytes) (hnan : nanCase cmd v = false)
    (hv : ∀ bs, v = .bytes bs → bs.length ≠ w / 8) :
    ∃ t r, exec i s = .next t ∧ t.dp.rsp = some r ∧ Admits cmd v r := by
  by_cases htag : v.tag = .bytes
  · obtain ⟨bs, rfl⟩ := exists_bytes_of_tag htag
    have hne := hv bs rfl
    obtain ⟨bs', hop⟩ := operandOf_bytes bs
    refine ⟨_, _, hlengths s _ bs' (hs.trans hop) (by omega), rfl, admits_of_ports hnan ?_⟩
    rw [exec_eq_decodeKey hf, decodeKey_length hf hne]
    simp only [blockResponse, responsePorts, errorPorts, responseStatus, lenPort_saturated]
  · exact refines_otherTag hs htags htag hnan
      (by rw [exec_eq_decodeKey hf, decodeKey_tag htag])

end

/-! ### The rules refine `Exec` -/

section
variable {i : Instr} {cmd : Cmd} {kind w : Nat}

/-- The whole rule of an integer encode is the one of `Exec`, where the rule's bounds are the codec's
and its key has the number that `Exec` gives. -/
theorem refines_of_intEncodeRule {lo hi : Int} {Pattern : Int → Nat → Prop}
    (hf : HasFields cmd 0 kind w) (hkind : kind ≠ 2) (hdvd : 8 ∣ w)
    (hbounds : bounds kind w = (lo, hi)) (hport : -2 ^ 65 ≤ lo ∧ hi < 2 ^ 65)
    (hrule : IntEncodeRule i cmd w lo hi Pattern)
    (hpattern : ∀ v e, lo ≤ v → v ≤ hi → Pattern v e →
      e = if kind = 0 then signedKey w v else v.toNat) :
    RefinesExec i cmd := by
  intro s v hs
  obtain ⟨-, hin, hout, hbeyond, htags⟩ := hrule
  have hnan : nanCase cmd v = false := nanCase_int hf hkind
  by_cases htag : v.tag = .int
  case neg =>
    exact refines_otherTag hs htags htag hnan
      (by rw [exec_eq_encodeInt hf hkind, encodeInt_tag htag])
  obtain ⟨n, rfl⟩ := exists_int_of_tag htag
  have hexec : Exec cmd (.int n) =
      if n < lo ∨ hi < n then .err cmd (.rangeValue n lo hi)
      else .ok (.bytes (key w (if kind = 0 then signedKey w n else n.toNat))) := by
    rw [exec_eq_encodeInt hf hkind]
    obtain ⟨-, -, hk, hw⟩ := hf
    simp only [encodeInt, hk, hw, hbounds]
  by_cases hn : n < lo ∨ hi < n
  · rw [if_pos hn] at hexec
    by_cases hfits : -2 ^ 65 ≤ n ∧ n < 2 ^ 65
    · have hop : s.operand = intOp n := by rw [hs, operandOf, portValue, if_pos hfits, intOp]
      refine ⟨_, _, hout s n hop hn, rfl, admits_of_ports hnan ?_⟩
      rw [hexec, blockResponse, portValue, if_pos hfits]
    · have hop : s.operand = .int (.beyond (decide (n < 0))) := by
        rw [hs, operandOf, portValue, if_neg hfits]
      refine ⟨_, _, hbeyond s _ hop, rfl, admits_of_ports hnan ?_⟩
      rw [hexec, blockResponse, portValue, if_neg hfits]
  · rw [if_neg hn] at hexec
    have hop : s.operand = intOp n := by rw [hs, operandOf, portValue, if_pos (by omega), intOp]
    obtain ⟨bs, hlen, hnumber, hkey, -⟩ := hin n (by omega) (by omega)
    refine ⟨_, _, hkey s hop, rfl, admits_of_ports hnan ?_⟩
    rw [hexec, ← hpattern n _ (by omega) (by omega) hnumber, key_fromBE hdvd hlen, blockResponse]

/-- The whole rule of an integer decode is the one of `Exec`, where its value is the one that `Exec`
gives. -/
theorem refines_of_intDecodeRule {Value : Nat → Int → Prop} (hf : HasFields cmd 1 kind w)
    (hkind : kind = 0 ∨ kind = 1) (hw : w ≤ 64) (hrule : IntDecodeRule i cmd w Value)
    (hvalue : ∀ e v, Value e v → v = if kind = 0 then signedValue w e else e) :
    RefinesExec i cmd := by
  intro s v hs
  obtain ⟨-, hkey, hlengths, htags⟩ := hrule
  have hnan : nanCase cmd v = false := nanCase_int hf (by omega)
  by_cases hv : ∃ bs, v = .bytes bs ∧ bs.length = w / 8
  · obtain ⟨bs, rfl, hlen⟩ := hv
    obtain ⟨n, hn, hdec, -⟩ := hkey bs hlen
    refine ⟨_, _, hdec s (hs.trans (operandOf_key hw hlen)), rfl, admits_of_ports hnan ?_⟩
    rw [exec_eq_decodeKey hf, hvalue _ _ hn]
    obtain ⟨-, -, hk, hwidth⟩ := hf
    rcases hkind with rfl | rfl <;>
      simp [decodeKey, hk, hwidth, hlen, pattern_eq_fromBE, blockResponse]
  · exact refines_notAKey hs hw hf hlengths htags hnan fun bs hbs hlen => hv ⟨bs, hbs, hlen⟩

/-- The whole rule of a float encode is the one of `Exec`, and on a NaN one that DRAW allows. -/
theorem refines_of_floatEncodeRule {op : BitVec w → Operand} (hf : HasFields cmd 0 2 w)
    (hdvd : 8 ∣ w) (hrule : FloatEncodeRule i cmd w op (floatTag w))
    (hvalue : ∀ v : HostValue, v.tag = floatTag w → ∃ b : BitVec w, operandOf v = op b ∧
      encodeFloat cmd v = .ok (.bytes (key w (floatKey w b.toNat))) ∧
      nanCase cmd v = isNaN b) :
    RefinesExec i cmd := by
  intro s v hs
  obtain ⟨-, hnumber, hnan, htags⟩ := hrule
  by_cases htag : v.tag = floatTag w
  case neg =>
    exact refines_otherTag hs htags htag (nanCase_encode_tag hf htag)
      (by rw [exec_eq_encodeFloat hf, encodeFloat_tag hf htag])
  obtain ⟨b, hop, hexec, hcase⟩ := hvalue v htag
  cases hb : isNaN b with
  | false =>
    obtain ⟨bs, hlen, hbs, hkey, -⟩ := hnumber b hb
    refine ⟨_, _, hkey s (hs.trans hop), rfl, admits_of_ports (hcase.trans hb) ?_⟩
    rw [exec_eq_encodeFloat hf, hexec, ← hbs, key_fromBE hdvd hlen, blockResponse]
  | true =>
    obtain ⟨bs, hlen, hbs, hopen⟩ := hnan s b (hs.trans hop) hb
    have hdraw (y : BitVec w) : DrawAllows cmd (.ok (.bytes (toBE y))) := by
      obtain ⟨-, hdir, -, hwidth⟩ := hf
      exact .inr (.inl ⟨hdir, _, rfl, by rw [toBE_length, hwidth]⟩)
    exact ⟨_, _, hopen, rfl, admits_of_draw (hcase.trans hb) (drawAllows_openResponse hdraw)⟩

/-- The whole rule of a float decode is the one of `Exec`, and on a key of a NaN one that DRAW
allows. -/
theorem refines_of_floatDecodeRule {wrap : BitVec w → Result} (hf : HasFields cmd 1 2 w)
    (hdvd : 8 ∣ w) (hw : w ≤ 64) (hrule : FloatDecodeRule i cmd w wrap)
    (hwrap : ∀ n, floatResult w n = wrap (BitVec.ofNat w n))
    (hdraw : ∀ y, DrawAllows cmd (.ok (wrap y)))
    (hkeys : ∀ e < 2 ^ w, isNaN (BitVec.ofNat w (floatValue w e)) = nanKey w e) :
    RefinesExec i cmd := by
  intro s v hs
  obtain ⟨-, hnumber, hnan, hlengths, htags⟩ := hrule
  by_cases hv : ∃ bs, v = .bytes bs ∧ bs.length = w / 8
  · obtain ⟨bs, rfl, hlen⟩ := hv
    have hop := hs.trans (operandOf_key hw hlen)
    have hcase : nanCase cmd (.bytes bs) = isNaN (BitVec.ofNat w (floatValue w (fromBE bs))) := by
      rw [nanCase_decode hf, hkeys _ (fromBE_lt_two_pow hdvd hlen)]
      simp [hlen]
    cases hb : isNaN (BitVec.ofNat w (floatValue w (fromBE bs))) with
    | false =>
      refine ⟨_, _, hnumber bs hlen hb s hop, rfl, admits_of_ports (hcase.trans hb) ?_⟩
      rw [exec_eq_decodeKey hf]
      obtain ⟨-, -, hk, hwidth⟩ := hf
      simp [decodeKey, hk, hwidth, hlen, pattern_eq_fromBE, blockResponse, hwrap]
    | true =>
      exact ⟨_, _, hnan s bs (hlen ▸ hop) hb, rfl,
        admits_of_draw (hcase.trans hb) (drawAllows_openResponse hdraw)⟩
  · have hne (bs : List Byte) (hbs : v = .bytes bs) : bs.length ≠ w / 8 :=
      fun hlen => hv ⟨bs, hbs, hlen⟩
    have hcase : nanCase cmd v = false := by
      by_cases htag : v.tag = .bytes
      · obtain ⟨bs, rfl⟩ := exists_bytes_of_tag htag
        simp [nanCase_decode hf, hne bs rfl]
      · exact nanCase_decode_tag hf htag
    exact refines_notAKey hs hw hf hlengths htags hcase hne

end

end Sys2Proof.Proofs

/-!
PROOFS. The operations refine `Exec` one by one (10_state R20), so the datapath does, on every word; a
served response is right for its request (10_state R24) and depends on the request alone (R21).
-/

namespace Sys2Proof.Proofs

open Sys2Proof.Machine Sys2Proof.Machine.Ref

/-! ### Each operation refines `Exec` -/

/-- On the codec's bounds the signed key's number is the one of `Exec`. -/
theorem signedPattern_eq_signedKey {w : Nat} (hw : 0 < w) {v : Int} {e : Nat}
    (h1 : -2 ^ (w - 1) ≤ v) (h2 : v ≤ 2 ^ (w - 1) - 1) (h : SignedPattern w v e) :
    e = signedKey w v := by
  obtain ⟨k, rfl⟩ : ∃ k, w = k + 1 := ⟨w - 1, by omega⟩
  obtain ⟨-, he⟩ := h
  rw [Nat.add_sub_cancel] at h1 h2 he
  have hpow : (2 : Int) ^ (k + 1) = 2 * 2 ^ k := by rw [pow_succ, mul_comm]
  rw [signedKey, Nat.add_sub_cancel, Int.emod_eq_of_lt (by omega) (by omega), ← he,
    Int.toNat_natCast]

/-- A signed encode refines `Exec`. -/
theorem refines_of_signedEncodeRule {i : Instr} {cmd : Cmd} {w : Nat} {lo hi : Int}
    (hf : HasFields cmd 0 0 w) (hdvd : 8 ∣ w) (hpos : 0 < w) (hw : w ≤ 64)
    (hlo : lo = -2 ^ (w - 1)) (hhi : hi = 2 ^ (w - 1) - 1)
    (hrule : IntEncodeRule i cmd w lo hi (SignedPattern w)) : RefinesExec i cmd := by
  have hpow : (2 : Int) ^ (w - 1) ≤ 2 ^ 63 := pow_le_pow_right₀ (by decide) (by omega)
  subst hlo hhi
  refine refines_of_intEncodeRule hf (by decide) hdvd rfl (by omega) hrule fun v e h1 h2 h => ?_
  exact signedPattern_eq_signedKey hpos h1 h2 h

/-- An unsigned encode refines `Exec`. -/
theorem refines_of_unsignedEncodeRule {i : Instr} {cmd : Cmd} {w : Nat} {hi : Int}
    (hf : HasFields cmd 0 1 w) (hdvd : 8 ∣ w) (hw : w ≤ 64) (hhi : hi = 2 ^ w - 1)
    (hrule : IntEncodeRule i cmd w 0 hi fun v e => (e : Int) = v) : RefinesExec i cmd := by
  have hpow : (2 : Int) ^ w ≤ 2 ^ 64 := pow_le_pow_right₀ (by decide) hw
  subst hhi
  refine refines_of_intEncodeRule hf (by decide) hdvd rfl (by omega) hrule fun v e h1 h2 h => ?_
  rw [← h]
  rfl

/-- A signed decode refines `Exec`. -/
theorem refines_of_signedDecodeRule {i : Instr} {cmd : Cmd} {w : Nat}
    (hf : HasFields cmd 1 0 w) (hw : w ≤ 64)
    (hrule : IntDecodeRule i cmd w fun e v => v = (e : Int) - 2 ^ (w - 1)) : RefinesExec i cmd :=
  refines_of_intDecodeRule hf (.inl rfl) hw hrule fun _ _ h => h

/-- An unsigned decode refines `Exec`. -/
theorem refines_of_unsignedDecodeRule {i : Instr} {cmd : Cmd} {w : Nat}
    (hf : HasFields cmd 1 1 w) (hw : w ≤ 64)
    (hrule : IntDecodeRule i cmd w fun e v => v = e) : RefinesExec i cmd :=
  refines_of_intDecodeRule hf (.inr rfl) hw hrule fun _ _ h => h

/-- ENC.F32 refines `Exec`. -/
theorem encF32_refines : RefinesExec .encF32 0x14#8 := by
  refine refines_of_floatEncodeRule (by decide) (by decide) encF32_rule fun v htag => ?_
  cases v with
  | float32 b => exact ⟨b, rfl, rfl, (isNaN_eq_nanPattern32 b).symm⟩
  | _ => cases htag

/-- ENC.F64 refines `Exec`. -/
theorem encF64_refines : RefinesExec .encF64 0x1C#8 := by
  refine refines_of_floatEncodeRule (by decide) (by decide) encF64_rule fun v htag => ?_
  cases v with
  | float64 b => exact ⟨b, rfl, rfl, (isNaN_eq_nanPattern64 b).symm⟩
  | _ => cases htag

/-- DEC.F32 refines `Exec`. -/
theorem decF32_refines : RefinesExec .decF32 0x15#8 := by
  refine refines_of_floatDecodeRule (by decide) (by decide) (by decide) decF32_rule (fun _ => rfl)
    (fun y => .inr (.inr (.inl ⟨by decide, by decide, y, rfl⟩))) fun e he => ?_
  rw [isNaN_eq_nanPattern32, BitVec.toNat_ofNat, Nat.mod_eq_of_lt (floatValue_lt he),
    nanPattern_floatValue32 he]

/-- DEC.F64 refines `Exec`. -/
theorem decF64_refines : RefinesExec .decF64 0x1D#8 := by
  refine refines_of_floatDecodeRule (by decide) (by decide) (by decide) decF64_rule (fun _ => rfl)
    (fun y => .inr (.inr (.inr ⟨by decide, by decide, y, rfl⟩))) fun e he => ?_
  rw [isNaN_eq_nanPattern64, BitVec.toNat_ofNat, Nat.mod_eq_of_lt (floatValue_lt he),
    nanPattern_floatValue64 he]

/-- Every operation refines `Exec` of its own word. -/
theorem exec_refines (i : Instr) : RefinesExec i (Sys2Proof.encode i) := by
  cases i with
  | encS8 =>
    exact refines_of_signedEncodeRule (by decide) (by decide) (by decide) (by decide) rfl rfl
      encS8_rule
  | encS16 =>
    exact refines_of_signedEncodeRule (by decide) (by decide) (by decide) (by decide) rfl rfl
      encS16_rule
  | encS32 =>
    exact refines_of_signedEncodeRule (by decide) (by decide) (by decide) (by decide) rfl rfl
      encS32_rule
  | encS64 =>
    exact refines_of_signedEncodeRule (by decide) (by decide) (by decide) (by decide) rfl rfl
      encS64_rule
  | encU8 => exact refines_of_unsignedEncodeRule (by decide) (by decide) (by decide) rfl encU8_rule
  | encU16 =>
    exact refines_of_unsignedEncodeRule (by decide) (by decide) (by decide) rfl encU16_rule
  | encU32 =>
    exact refines_of_unsignedEncodeRule (by decide) (by decide) (by decide) rfl encU32_rule
  | encU64 =>
    exact refines_of_unsignedEncodeRule (by decide) (by decide) (by decide) rfl encU64_rule
  | decS8 => exact refines_of_signedDecodeRule (by decide) (by decide) decS8_rule
  | decS16 => exact refines_of_signedDecodeRule (by decide) (by decide) decS16_rule
  | decS32 => exact refines_of_signedDecodeRule (by decide) (by decide) decS32_rule
  | decS64 => exact refines_of_signedDecodeRule (by decide) (by decide) decS64_rule
  | decU8 => exact refines_of_unsignedDecodeRule (by decide) (by decide) decU8_rule
  | decU16 => exact refines_of_unsignedDecodeRule (by decide) (by decide) decU16_rule
  | decU32 => exact refines_of_unsignedDecodeRule (by decide) (by decide) decU32_rule
  | decU64 => exact refines_of_unsignedDecodeRule (by decide) (by decide) decU64_rule
  | encF32 => exact encF32_refines
  | encF64 => exact encF64_refines
  | decF32 => exact decF32_refines
  | decF64 => exact decF64_refines

/-! ### The datapath refines `Exec` -/

/-- Only an operation's own word decodes to it (30_encoding R62, R63). -/
theorem eq_encode_of_decode {c : Cmd} {i : Instr} (h : Sys2Proof.decode c = .ok i) :
    c = Sys2Proof.encode i := by
  have hown : ∀ c : Cmd, ∀ j ∈ (Sys2Proof.decode c).toOption, c = Sys2Proof.encode j := by decide
  exact hown c i (by simp [h, Except.toOption])

/-- A word that does not decode is illegal in `Exec` too (30_encoding R61, R64). -/
theorem legal_of_decode_error {c : Cmd} {g : DecodeError} (h : Sys2Proof.decode c = .error g) :
    legal c = false := by
  have hlegal : ∀ c : Cmd, legal c = (Sys2Proof.decode c).toOption.isSome := by decide
  simp [hlegal, h, Except.toOption]

/-- Serving a word that does not decode raises ERR_ILLEGAL (60_exceptions R203). -/
theorem serve_illegal {s : State} {g : DecodeError}
    (h : Sys2Proof.decode s.dp.req.cmd = .error g) :
    serve s = .next (s.answer (.err s.dp.req.cmd .illegal)) := by
  simp [serve, h]

/-- Serving a word that decodes runs its operation. -/
theorem serve_legal {s : State} {i : Instr} (h : Sys2Proof.decode s.dp.req.cmd = .ok i) :
    serve s = exec i s := by
  simp [serve, h]

/-- Settles O43, by the decoded word: an operation refines `Exec` of its own word, and every other word
is illegal in both. -/
theorem datapathRefinesExec : Obligations.DatapathRefinesExec := by
  unfold Obligations.DatapathRefinesExec
  intro s v hv
  have hop : s.operand = operandOf v := portOperand_of_presented hv
  cases h : Sys2Proof.decode s.dp.req.cmd with
  | ok i =>
    rw [serve_legal h, eq_encode_of_decode h]
    exact exec_refines i s v hop
  | error g =>
    have hlegal := legal_of_decode_error h
    exact ⟨_, _, serve_illegal h, rfl,
      admits_of_ports (by simp [nanCase, hlegal]) (by simp [Exec, hlegal, blockResponse])⟩

/-- A served response is right for its request, whatever host value the ports present. -/
theorem answers_of_serve {s u : State} {r : BlockResponse} (h : serve s = .next u)
    (hr : u.dp.rsp = some r) : Answers s.dp.req r := by
  intro v hv
  obtain ⟨t, r', ht, hr', hadmits⟩ := datapathRefinesExec s v hv
  have htu : t = u := by simpa using ht.symm.trans h
  have hrr : r' = r := by simpa [htu, hr] using hr'.symm
  exact hrr ▸ hadmits

/-! ### The response depends on the request alone -/

/-- `k` answers by one response in every state with the operand `op`. -/
def AnswersAlike (op : Operand) (k : State → Outcome) : Prop :=
  ∃ r, ∀ s : State, s.operand = op → k s = .next (s.answer r)

theorem respond_alike (op : Operand) (r : Result) : AnswersAlike op (respond r) :=
  ⟨.ok r, fun _ _ => rfl⟩

/-- A checked operation answers alike where what it does with a checked value does. -/
theorem afterCheck_alike {α : Type} {op : Operand} (cmd : Cmd)
    (check : Operand → Except (ErrorInfo PortInt) α) {k : α → State → Outcome}
    (hk : ∀ a, check op = .ok a → AnswersAlike op (k a)) :
    AnswersAlike op fun s => afterCheck cmd (check s.operand) (fun a => k a s) s := by
  cases h : check op with
  | error e => exact ⟨.err cmd e, fun s hs => by simp only [hs, h, afterCheck_error]⟩
  | ok a =>
    obtain ⟨r, hr⟩ := hk a h
    exact ⟨r, fun s hs => by simp only [hs, h, afterCheck_ok, hr s hs]⟩

theorem floatEncode_alike {w : Nat} {op : Operand} (cmd : Cmd) {r : BitVec w}
    (h : isNaN r = false) : AnswersAlike op (floatEncode cmd r) :=
  ⟨_, fun s _ => floatEncode_number cmd s h⟩

theorem floatDecode_alike {w : Nat} {op : Operand} (cmd : Cmd) (wrap : BitVec w → Result)
    {bs : List Byte} (h : isNaN (fdec (BitVec.ofNat w (fromBE bs))) = false) :
    AnswersAlike op (floatDecode cmd wrap bs) :=
  ⟨_, fun s _ => floatDecode_number cmd wrap s h⟩

/-- The validator passes a pattern only of a binary32 operand. -/
theorem eq_float32_of_validate {op : Operand} {b : BitVec 32}
    (h : validateEncFloat32 op = .ok b) : op = .float32 b := by
  cases op with
  | float32 b' => simpa [validateEncFloat32] using h
  | _ => simp [validateEncFloat32] at h

/-- The validator passes a pattern only of a binary64 operand. -/
theorem eq_float64_of_validate {op : Operand} {b : BitVec 64}
    (h : validateEncFloat64 op = .ok b) : op = .float64 b := by
  cases op with
  | float64 b' => simpa [validateEncFloat64] using h
  | _ => simp [validateEncFloat64] at h

/-- The validator passes bytes only of a byte operand with the count W/8. -/
theorem eq_bytes_of_validate {op : Operand} {w : Nat} {bs : List Byte}
    (h : validateDec op w = .ok bs) : op = .bytes (w / 8) bs := by
  cases op with
  | bytes len bs' =>
    by_cases hlen : len = w / 8
    · simpa [validateDec, hlen] using h
    · simp [validateDec, hlen] at h
  | _ => simp [validateDec] at h

/-- Outside the NaN cases an operation answers by a response that its operand alone decides. -/
theorem exec_alike {i : Instr} {op : Operand} (hnan : nanTransaction i op = false) :
    AnswersAlike op (exec i) := by
  cases i with
  | encF32 =>
    refine afterCheck_alike 0x14#8 validateEncFloat32 fun b hb => floatEncode_alike _ ?_
    simpa [nanTransaction, eq_float32_of_validate hb] using hnan
  | encF64 =>
    refine afterCheck_alike 0x1C#8 validateEncFloat64 fun b hb => floatEncode_alike _ ?_
    simpa [nanTransaction, eq_float64_of_validate hb] using hnan
  | decF32 =>
    refine afterCheck_alike 0x15#8 (validateDec · 32) fun bs hbs => floatDecode_alike _ _ ?_
    simpa [nanTransaction, eq_bytes_of_validate hbs] using hnan
  | decF64 =>
    refine afterCheck_alike 0x1D#8 (validateDec · 64) fun bs hbs => floatDecode_alike _ _ ?_
    simpa [nanTransaction, eq_bytes_of_validate hbs] using hnan
  | encS8 | encS16 | encS32 | encS64 | encU8 | encU16 | encU32 | encU64 =>
    exact afterCheck_alike _ (validateEncInt · _ _) fun _ _ => respond_alike _ _
  | decS8 | decS16 | decS32 | decS64 | decU8 | decU16 | decU32 | decU64 =>
    exact afterCheck_alike _ (validateDec · _) fun _ _ => respond_alike _ _

/-- Settles O41, by the decoded word: an operation's response outside the NaN cases is decided by the
operand, and an illegal word's by the word. -/
theorem responsesDependOnTheRequestAlone : Obligations.ResponsesDependOnTheRequestAlone := by
  unfold Obligations.ResponsesDependOnTheRequestAlone
  intro s s' hcmd hop hnan
  cases h : Sys2Proof.decode s.dp.req.cmd with
  | ok i =>
    obtain ⟨r, hr⟩ := exec_alike (hnan i h)
    exact ⟨r, by rw [serve_legal h, hr s rfl],
      by rw [serve_legal (hcmd ▸ h), hr s' hop.symm]⟩
  | error g =>
    exact ⟨.err s.dp.req.cmd .illegal, serve_illegal h, by rw [serve_illegal (hcmd ▸ h), hcmd]⟩

end Sys2Proof.Proofs

/-!
PROOFS. What a cycle of a channel does to the state, said once (10_state R27, R29, R34), and the
invariant of the machine, which holds after reset and which every step keeps.
-/

namespace Sys2Proof.Proofs

open Sys2Proof.Machine

/-! ### A cycle of a channel -/

/-- The channel once `joined` has entered its list behind the others. -/
def enter (c : Channel) (joined : List InFlight) : Channel :=
  { c with
    inflight := c.inflight ++ joined, accepted := c.accepted ++ joined.map InFlight.req }

@[simp] theorem enter_nil (c : Channel) : enter c [] = c := by simp [enter]
@[simp] theorem enter_inp (c : Channel) (l : List InFlight) : (enter c l).inp = c.inp := rfl
@[simp] theorem enter_reqReady (c : Channel) (l : List InFlight) :
    (enter c l).reqReady = c.reqReady := rfl
@[simp] theorem enter_fresh (c : Channel) (l : List InFlight) : (enter c l).fresh = c.fresh := rfl
@[simp] theorem enter_startup (c : Channel) (l : List InFlight) :
    (enter c l).startup = c.startup := rfl
@[simp] theorem enter_program (c : Channel) (l : List InFlight) :
    (enter c l).program = c.program := rfl
@[simp] theorem enter_inflight (c : Channel) (l : List InFlight) :
    (enter c l).inflight = c.inflight ++ l := rfl
@[simp] theorem enter_accepted (c : Channel) (l : List InFlight) :
    (enter c l).accepted = c.accepted ++ l.map InFlight.req := rfl
@[simp] theorem enter_delivered (c : Channel) (l : List InFlight) :
    (enter c l).delivered = c.delivered := rfl

/-- The state after a cycle that leaves channel `k` as `d`, with the free value `n` used last. -/
def afterCycle (s : State) (k : Nat) (d : Channel) (n : Nat) : State :=
  { s with channels := s.channels.set k d, dp := Datapath.idle, free := n + 1 }

/-- Serving a request answers it and takes some number of free values. -/
theorem serve_eq (s : State) : ∃ r m, serve s = .next { s.answer r with free := m } := by
  obtain ⟨r, m, h⟩ := serve_uniform s.dp.req s.free
  exact ⟨r, m, h s rfl rfl⟩

/-- `c'` is the channel `c` in a cycle that drives `inp`, before anything joins its list; its program is
shorter only where the program host's request is accepted. -/
structure Driven (c : Channel) (inp : ChanIn) (c' : Channel) : Prop where
  inp_eq : c'.inp = inp
  reqReady_eq : c'.reqReady = c.canAccept
  inflight_eq : c'.inflight = c.inflight
  accepted_eq : c'.accepted = c.accepted
  delivered_eq : c'.delivered = c.delivered
  fresh_eq : c'.fresh = c.fresh
  startup_eq : c'.startup = c.startup
  program_eq : (inp.reqValid && c.canAccept) = false → c'.program = c.program

theorem driven_drive (c : Channel) (inp : ChanIn) : Driven c inp (c.drive inp) :=
  ⟨rfl, rfl, rfl, rfl, rfl, rfl, rfl, fun _ => rfl⟩

/-- The channel as the program host drives it. -/
theorem driven_program (c : Channel) :
    Driven c c.programIn
      (if (c.drive c.programIn).accepting then (c.drive c.programIn).advanceProgram
        else c.drive c.programIn) := by
  split
  case isTrue hacc =>
    exact ⟨rfl, rfl, rfl, rfl, rfl, rfl, rfl, fun hno => Bool.noConfusion (hacc.symm.trans hno)⟩
  case isFalse => exact driven_drive c _

/-- A cycle of a channel always goes on: what joins enters the list, and the cycle ends. -/
theorem runChannel_joins (s : State) (k : Nat) {c c' : Channel} {inp : ChanIn}
    (hd : Driven c inp c') : ∃ joined n, Joins s c inp joined ∧
      runChannel k c' s = .next (afterCycle s k ((enter c' joined).finish n) n) := by
  have hacc : c'.accepting = (inp.reqValid && c.canAccept) := by
    rw [Channel.accepting, hd.inp_eq, hd.reqReady_eq]
  cases ha : inp.reqValid && c.canAccept with
  | true =>
    obtain ⟨r, m, hserve⟩ := serve_eq (s.route inp.req)
    refine ⟨[{ req := inp.req, rsp := r, wait := Config.latency }], m, ?_, ?_⟩
    · rw [Joins, if_pos ha]
      exact ⟨_, r, hserve, rfl, rfl⟩
    · rw [runChannel, if_pos (hacc.trans ha), hd.inp_eq, hserve]
      rfl
  | false =>
    refine ⟨[], s.free, by simp [Joins, ha], ?_⟩
    rw [runChannel, if_neg (by simp [hacc, ha]), enter_nil]
    rfl

/-- What joins depends on the request and on the next free value, and on nothing else of the state. -/
theorem joins_of_free_eq {s s' : State} {c : Channel} {inp : ChanIn} {joined : List InFlight}
    (hfree : s'.free = s.free) (h : Joins s' c inp joined) : Joins s c inp joined := by
  unfold Joins at h ⊢
  split at h
  case isFalse hno => rwa [if_neg hno]
  case isTrue hacc =>
    rw [if_pos hacc]
    obtain ⟨u, r, hu, hr, hj⟩ := h
    obtain ⟨r', m, hserve⟩ := serve_uniform inp.req s.free
    have hu' := Host.Outcome.next.inj (hu.symm.trans (hserve (s'.route inp.req) rfl hfree))
    exact ⟨_, r, hserve (s.route inp.req) rfl rfl, by rw [← hr, hu']; rfl, hj⟩

/-- The state with the coming cycle taken from the host. -/
def scheduled (s : State) : State :=
  { s with script := s.script.tail, turn := if s.script.isEmpty then nextTurn s else s.turn }

/-- A cycle of the script runs its channel with the inputs that the script drives. -/
theorem scripted_step {s : State} {k : Nat} {inp : ChanIn} {rest : List HostEvent} {c : Channel}
    (hl : s.live = true) (hs : s.script = .cycle k inp :: rest) (hc : s.channels[k]? = some c) :
    step s = runChannel k (c.drive inp) { s with script := rest } := by
  simp [step, nextEvent, hs, hl, cycle, hc]

section
variable {s : State} {k : Nat} {c : Channel} {inp : ChanIn}

/-- The step of a cycle runs its channel, driven by the script or by the program host. -/
theorem cycleOf_step_eq (h : CycleOf s k c inp) :
    ∃ c', Driven c inp c' ∧ step s = runChannel k c' (scheduled s) := by
  obtain ⟨hl, hc, ⟨rest, hs⟩ | ⟨hs, rfl, rfl⟩⟩ := h
  · exact ⟨_, driven_drive c inp, by simp [scripted_step hl hs hc, scheduled, hs]⟩
  · exact ⟨_, driven_program c, by simp [step, nextEvent, hs, hl, programCycle, hc, scheduled]⟩

/-- What a cycle does: what joins enters the driven channel's list, and the cycle ends. -/
theorem cycleOf_next (h : CycleOf s k c inp) : ∃ c' joined n, Driven c inp c' ∧
    Joins s c inp joined ∧
    step s = .next (afterCycle (scheduled s) k ((enter c' joined).finish n) n) := by
  obtain ⟨c', hd, hstep⟩ := cycleOf_step_eq h
  obtain ⟨joined, n, hj, hrun⟩ := runChannel_joins (scheduled s) k hd
  exact ⟨c', joined, n, hd, joins_of_free_eq (s' := scheduled s) rfl hj, hstep.trans hrun⟩

/-- A step that goes on is a reset cycle or a cycle of a channel. -/
theorem reset_or_cycleOf {t : State} (h : step s = .next t) :
    (∃ driven rest, s.script = .reset driven :: rest ∧
      t = ({ s with script := rest }).resetCycle driven) ∨
    ∃ k c inp, CycleOf s k c inp := by
  rcases step_cases h with hreset | ⟨k, inp, rest, c, hl, hs, hc, -⟩ | ⟨c, hl, hs, hc, -⟩
  · exact .inl hreset
  · exact .inr ⟨k, c, inp, hl, hc, .inl ⟨rest, hs⟩⟩
  · exact .inr ⟨s.turn, c, c.programIn, hl, hc, .inr ⟨hs, rfl, rfl⟩⟩

end

/-! ### The invariant of a channel -/

/-- A channel with room is the only one that accepts (10_state R34). -/
theorem lt_fifoDepth_of_canAccept {c : Channel} (h : c.canAccept = true) :
    c.inflight.length < Config.fifoDepth := by
  simp only [Channel.canAccept, Bool.and_eq_true, decide_eq_true_eq] at h
  obtain ⟨-, hroom⟩ := h
  exact hroom

/-- The invariant is about the list and the two records alone. -/
theorem channelInv_congr {c d : Channel} (h : ChannelInv c) (hi : d.inflight = c.inflight)
    (ha : d.accepted = c.accepted) (hd : d.delivered = c.delivered) : ChannelInv d where
  inOrder := by rw [hi, ha, hd]; exact h.inOrder
  withinDepth := hi ▸ h.withinDepth
  withinLatency := hi ▸ h.withinLatency
  aged := hi ▸ h.aged
  pendingRight := hi ▸ h.pendingRight
  observedRight := hd ▸ h.observedRight

/-- A channel that has seen nothing is right. -/
theorem channelInv_of_empty {c : Channel} (hi : c.inflight = []) (ha : c.accepted = [])
    (hd : c.delivered = []) : ChannelInv c := by
  constructor <;> simp [hi, ha, hd]

/-- What joins keeps the invariant: there was room, its wait is the longest, and its response is right
because the datapath refines `Exec`. -/
theorem channelInv_enter {s : State} {c : Channel} {inp : ChanIn} {joined : List InFlight}
    (h : ChannelInv c) (hj : Joins s c inp joined) : ChannelInv (enter c joined) := by
  unfold Joins at hj
  split at hj
  case isFalse => rwa [hj, enter_nil]
  case isTrue hacc =>
    obtain ⟨u, r, hserve, hr, rfl⟩ := hj
    have hroom : c.inflight.length < Config.fifoDepth :=
      lt_fifoDepth_of_canAccept (Bool.and_eq_true_iff.1 hacc).2
    have hright : Answers inp.req r := answers_of_serve hserve hr
    exact {
      inOrder := by simp [h.inOrder]
      withinDepth := by simpa using hroom
      withinLatency := by simpa [or_imp, forall_and] using h.withinLatency
      aged := by simpa [List.pairwise_append] using And.intro h.aged h.withinLatency
      pendingRight := by simpa [or_imp, forall_and] using And.intro h.pendingRight hright
      observedRight := h.observedRight }

/-- Delivering keeps the invariant: the oldest entry goes from the list to the record. -/
theorem channelInv_deliver {c : Channel} (h : ChannelInv c) : ChannelInv c.deliver := by
  cases hd : c.delivering with
  | false =>
    exact channelInv_congr h (by simp [Channel.deliver, hd]) rfl (by simp [Channel.deliver, hd])
  | true =>
    cases hi : c.inflight with
    | nil =>
      exact channelInv_congr h (by simp [Channel.deliver, hi]) rfl
        (by simp [Channel.deliver, Channel.oldest, hi])
    | cons e rest =>
      obtain ⟨inOrder, withinDepth, withinLatency, aged, pendingRight, observedRight⟩ := h
      rw [hi] at inOrder withinDepth withinLatency aged pendingRight
      have hlist : c.deliver.inflight = rest := by simp [Channel.deliver, hd, hi]
      have hrecord : c.deliver.delivered = c.delivered ++ [(e.req, e.rsp)] := by
        simp [Channel.deliver, Channel.oldest, hd, hi]
      have haccepted : c.deliver.accepted = c.accepted := rfl
      rw [List.forall_mem_cons] at withinLatency pendingRight
      exact {
        inOrder := by simp [hlist, hrecord, haccepted, inOrder]
        withinDepth := by rw [hlist]; exact (Nat.le_succ _).trans withinDepth
        withinLatency := hlist ▸ withinLatency.2
        aged := hlist ▸ aged.of_cons
        pendingRight := hlist ▸ pendingRight.2
        observedRight := by
          rw [hrecord, List.forall_mem_append, List.forall_mem_singleton]
          exact ⟨observedRight, pendingRight.1⟩ }

/-- The clock edge keeps the invariant: all waits go down together. -/
theorem channelInv_tick {c : Channel} (h : ChannelInv c) : ChannelInv c.tick where
  inOrder := by
    simp only [Channel.tick, List.map_map]
    exact h.inOrder
  withinDepth := by simpa [Channel.tick] using h.withinDepth
  withinLatency := by
    simp only [Channel.tick, List.forall_mem_map, InFlight.tick_wait]
    exact fun e he => (Nat.sub_le _ _).trans (h.withinLatency e he)
  aged := List.pairwise_map.2 (h.aged.imp fun hab => Nat.sub_le_sub_right hab 1)
  pendingRight := by
    simpa [Channel.tick] using h.pendingRight
  observedRight := h.observedRight

/-- The rest of a cycle keeps the invariant. -/
theorem channelInv_finish {c : Channel} (n : Nat) (h : ChannelInv c) : ChannelInv (c.finish n) :=
  channelInv_tick (channelInv_deliver (channelInv_congr h rfl rfl rfl))

/-! ### The invariant of the machine -/

/-- A reset cycle leaves every channel reset. -/
theorem forall_mem_resetCycle {s : State} {driven : List ChanIn} {P : Channel → Prop}
    (h : ∀ c i, P (Channel.resetCycle c i)) : ∀ c ∈ (s.resetCycle driven).channels, P c := by
  intro c hc
  obtain ⟨k, hk, rfl⟩ := List.mem_mapIdx.1 hc
  exact h _ _

/-- A reset cycle keeps the invariant: it empties every list and every record. -/
theorem stateInv_resetCycle {s : State} (driven : List ChanIn) (h : StateInv s) :
    StateInv (s.resetCycle driven) where
  channelCount := by rw [State.resetCycle_length, h.channelCount]
  datapathIdle := rfl
  turnInRange := by rw [State.resetCycle_length]; exact h.turnInRange
  channelsRight := forall_mem_resetCycle fun _ _ => channelInv_of_empty rfl rfl rfl

/-- Settles O52: every channel of the reset state is `Channel.reset`. -/
theorem resetLeavesOutputsZero : Obligations.ResetLeavesOutputsZero := by
  unfold Obligations.ResetLeavesOutputsZero
  refine ⟨rfl, List.length_replicate, rfl, fun c hc => ?_⟩
  obtain rfl := List.eq_of_mem_replicate hc
  exact ⟨rfl, rfl, rfl, rfl, rfl⟩

/-- Settles O55: every channel of the reset state has seen nothing. -/
theorem resetMeetsTheInvariant : Obligations.ResetMeetsTheInvariant where
  channelCount := List.length_replicate
  datapathIdle := rfl
  turnInRange := List.length_replicate.symm ▸ Nat.succ_pos _
  channelsRight := by
    intro c hc
    obtain rfl := List.eq_of_mem_replicate hc
    exact channelInv_of_empty rfl rfl rfl

/-- A cycle's scheduling leaves the turn with a channel. -/
theorem scheduled_turn_lt {s : State} (h : s.turn < s.channels.length) :
    (scheduled s).turn < s.channels.length := by
  unfold scheduled
  split
  · exact Nat.mod_lt _ ((Nat.zero_le _).trans_lt h)
  · exact h

/-- A cycle of a channel keeps the invariant: it changes that channel alone, by what joins its list and
by the rest of the cycle. -/
theorem stateInv_afterCycle {s : State} {k : Nat} {c c' : Channel} {inp : ChanIn}
    {joined : List InFlight} (n : Nat) (h : StateInv s) (hc : ChannelInv c)
    (hd : Driven c inp c') (hj : Joins s c inp joined) :
    StateInv (afterCycle (scheduled s) k ((enter c' joined).finish n) n) where
  channelCount := List.length_set.trans h.channelCount
  datapathIdle := rfl
  turnInRange := (scheduled_turn_lt h.turnInRange).trans_eq List.length_set.symm
  channelsRight := by
    intro d hmem
    rcases List.mem_or_eq_of_mem_set hmem with hold | rfl
    · exact h.channelsRight d hold
    · refine channelInv_finish n (channelInv_congr (channelInv_enter hc hj) ?_ ?_ ?_)
      · rw [enter_inflight, hd.inflight_eq, enter_inflight]
      · rw [enter_accepted, hd.accepted_eq, enter_accepted]
      · exact hd.delivered_eq

/-- Settles O56, by what a step can be: a reset cycle empties the lists and records, and a cycle of a
channel keeps the invariant of that channel. -/
theorem everyStepKeepsTheInvariant : Obligations.EveryStepKeepsTheInvariant := by
  unfold Obligations.EveryStepKeepsTheInvariant
  intro s t hinv hstep
  rcases reset_or_cycleOf hstep with ⟨driven, rest, -, rfl⟩ | ⟨k, c, inp, hcycle⟩
  · obtain ⟨channelCount, datapathIdle, turnInRange, channelsRight⟩ := hinv
    exact stateInv_resetCycle driven ⟨channelCount, datapathIdle, turnInRange, channelsRight⟩
  · obtain ⟨c', joined, n, hd, hj, hnext⟩ := cycleOf_next hcycle
    obtain rfl := Host.Outcome.next.inj (hstep.symm.trans hnext)
    obtain ⟨-, hc, -⟩ := hcycle
    exact stateInv_afterCycle n hinv (hinv.channelsRight c (List.mem_of_getElem? hc)) hd hj

end Sys2Proof.Proofs

/-!
PROOFS. The cycle of a channel in the block's own terms: what it presents, delivers and accepts
(10_state R24, R27, R29, R34), the delay after reset (R35), and the instruction that it runs.
-/

namespace Sys2Proof.Proofs

open Sys2Proof.Machine

/-! ### The channel after a cycle -/

/-- `req_ready` is 1 exactly past the delay after reset and with room in the list (10_state R34, R35). -/
theorem canAccept_eq_decide (c : Channel) : c.canAccept =
    decide (c.fresh = false ∧ c.startup = 0 ∧ c.inflight.length < Config.fifoDepth) := by
  rw [Bool.eq_iff_iff]
  simp [Channel.canAccept, and_assoc]

/-- A channel does not accept in the first cycle, within the delay, or with a full list. -/
theorem canAccept_eq_false {c : Channel}
    (h : c.fresh = true ∨ 0 < c.startup ∨ Config.fifoDepth ≤ c.inflight.length) :
    c.canAccept = false := by
  rw [canAccept_eq_decide, decide_eq_false_iff_not]
  rintro ⟨hfresh, hstartup, hroom⟩
  rcases h with h | h | h
  · exact Bool.noConfusion (hfresh.symm.trans h)
  · omega
  · omega

/-- Without a handshake nothing joins (10_state R27). -/
theorem joins_nil {s : State} {c : Channel} {inp : ChanIn} {joined : List InFlight}
    (hno : (inp.reqValid && c.canAccept) = false) (h : Joins s c inp joined) : joined = [] := by
  simpa [Joins, hno] using h

/-- The channel after a cycle, and what the cycle leaves of the host's script. -/
theorem cycleOf_channel {s : State} {k : Nat} {c : Channel} {inp : ChanIn}
    (h : CycleOf s k c inp) : ∃ t c' joined n, step s = .next t ∧
      t.channels[k]? = some ((enter c' joined).finish n) ∧ Driven c inp c' ∧
      Joins s c inp joined ∧ t.live = s.live ∧ t.script = s.script.tail := by
  obtain ⟨c', joined, n, hd, hj, hstep⟩ := cycleOf_next h
  exact ⟨_, c', joined, n, hstep, List.getElem?_set_self h.lt, hd, hj, rfl, rfl⟩

/-- With an empty list a cycle presents and delivers nothing. -/
theorem finish_nil {c : Channel} (n : Nat) (h : c.inflight = []) :
    (c.finish n).rspValid = false ∧ (c.finish n).delivered = c.delivered ∧
      (c.finish n).inflight = [] := by
  have hheld : (c.presenting && c.inp.rspReady) = false := by
    simp [Channel.presenting_nil c h]
  refine ⟨(Channel.presenting_nil c h).1, Channel.finish_delivered_held c n hheld, ?_⟩
  rw [Channel.finish_inflight_held c n hheld, h, List.map_nil]

/-- Otherwise it presents the oldest entry once its wait is over, and delivers it in a handshake. -/
theorem finish_cons {c : Channel} {e : InFlight} {rest : List InFlight} (n : Nat)
    (h : c.inflight = e :: rest) :
    (c.finish n).rspValid = decide (e.wait = 0) ∧
    ((c.finish n).rspValid = true → (c.finish n).rsp = responsePorts e.rsp) ∧
    ((c.finish n).rspValid = true → c.inp.rspReady = true →
      (c.finish n).delivered = c.delivered ++ [(e.req, e.rsp)] ∧
      (c.finish n).inflight = rest.map InFlight.tick) ∧
    ((c.finish n).rspValid = false ∨ c.inp.rspReady = false →
      (c.finish n).delivered = c.delivered ∧
      (c.finish n).inflight = (e :: rest).map InFlight.tick) := by
  obtain ⟨hpresenting, holdest⟩ := Channel.presenting_cons c h
  refine ⟨hpresenting, fun hv => ?ports, fun hv hr => ?taken, fun hno => ?held⟩
  case ports =>
    have hwait : e.wait = 0 := by simpa [hpresenting] using hv
    simp [Channel.portsNow, h, hwait]
  case taken =>
    have htaken : (c.presenting && c.inp.rspReady) = true := Bool.and_eq_true_iff.2 ⟨hv, hr⟩
    rw [Channel.finish_delivered_taken c n htaken, Channel.finish_inflight_taken c n htaken,
      holdest, h, List.tail_cons]
    exact ⟨rfl, rfl⟩
  case held =>
    have hheld : (c.presenting && c.inp.rspReady) = false := Bool.and_eq_false_iff.2 hno
    rw [Channel.finish_delivered_held c n hheld, Channel.finish_inflight_held c n hheld, h]
    exact ⟨rfl, rfl⟩

/-- Settles O60, by the list with what joins it: empty, or with an oldest entry. -/
theorem aCycleServesTheOldestEntry : Obligations.ACycleServesTheOldestEntry := by
  unfold Obligations.ACycleServesTheOldestEntry
  intro s k c inp hcycle
  obtain ⟨t, c', joined, n, hstep, hchannel, hd, hj, -, -⟩ := cycleOf_channel hcycle
  refine ⟨t, _, joined, hstep, hchannel, hj, ?_, ?_⟩
  · rw [Channel.finish_accepted, enter_accepted, hd.accepted_eq]
  have hlist : (enter c' joined).inflight = c.inflight ++ joined := by
    rw [enter_inflight, hd.inflight_eq]
  have hdelivered : (enter c' joined).delivered = c.delivered := hd.delivered_eq
  have hinp : (enter c' joined).inp = inp := hd.inp_eq
  cases hl : c.inflight ++ joined with
  | nil =>
    have hfinish := finish_nil n (hlist.trans hl)
    rwa [hdelivered] at hfinish
  | cons e rest =>
    have hfinish := finish_cons n (hlist.trans hl)
    rwa [hdelivered, hinp] at hfinish

/-- Settles O59: each of the four conditions rules out a handshake, so nothing joins the list. -/
theorem nothingIsAcceptedOutsideAHandshake : Obligations.NothingIsAcceptedOutsideAHandshake := by
  unfold Obligations.NothingIsAcceptedOutsideAHandshake
  intro s k c inp hcycle hclosed
  have hno : (inp.reqValid && c.canAccept) = false :=
    Bool.and_eq_false_iff.2 (hclosed.imp_right canAccept_eq_false)
  obtain ⟨t, c', joined, n, hstep, hchannel, hd, hj, -, -⟩ := cycleOf_channel hcycle
  obtain rfl := joins_nil hno hj
  rw [enter_nil] at hchannel
  refine ⟨t, _, hstep, hchannel, hd.accepted_eq, hd.program_eq hno, ?_,
    fun h => hd.reqReady_eq.trans (canAccept_eq_false h)⟩
  rw [Channel.finish_inflight, hd.inp_eq, hd.inflight_eq]
  rfl

/-- Settles O49: a full list is one of the conditions under which nothing is accepted. -/
theorem fullListIsNotReady : Obligations.FullListIsNotReady := by
  unfold Obligations.FullListIsNotReady
  intro s k inp rest c hl hs hc hfull
  have hcycle : CycleOf s k c inp := ⟨hl, hc, .inl ⟨rest, hs⟩⟩
  obtain ⟨t, d, hstep, hd, haccepted, -, -, hready⟩ :=
    nothingIsAcceptedOutsideAHandshake s k c inp hcycle (.inr (.inr (.inr hfull)))
  exact ⟨t, d, hstep, hd, hready (.inr (.inr hfull)), haccepted⟩

/-! ### The delay after reset -/

/-- A reset cycle starts the delay anew on every channel (10_state R35). -/
theorem reset_step_delay {s t : State} {driven : List ChanIn} {rest : List HostEvent}
    (hs : s.script = .reset driven :: rest) (hstep : step s = .next t) :
    ∀ c ∈ t.channels, c.fresh = true ∧ c.startup = Config.readyDelay := by
  have ht : t = ({ s with script := rest }).resetCycle driven := by
    simpa [step, nextEvent, hs] using hstep.symm
  exact ht ▸ forall_mem_resetCycle fun _ _ => ⟨rfl, rfl⟩

/-- The delay and `req_ready` in a cycle, and the outputs of the first one (10_state R35). -/
theorem cycleOf_delay {s : State} {k : Nat} {c : Channel} {inp : ChanIn}
    (hcycle : CycleOf s k c inp) :
    ∃ (t : State) (d : Channel), step s = .next t ∧ t.channels[k]? = some d ∧ d.fresh = false ∧
      d.startup = (if c.fresh then c.startup else c.startup - 1) ∧
      d.reqReady = decide
        (c.fresh = false ∧ c.startup = 0 ∧ c.inflight.length < Config.fifoDepth) ∧
      (c.fresh = true → c.inflight = [] → d.rspValid = false ∧ d.rsp = RspPorts.zero) := by
  obtain ⟨t, c', joined, n, hstep, hchannel, hd, hj, -, -⟩ := cycleOf_channel hcycle
  refine ⟨t, _, hstep, hchannel, rfl, ?_, ?_, fun hfresh hempty => ?_⟩
  · rw [Channel.finish_startup, enter_fresh, enter_startup, hd.fresh_eq, hd.startup_eq]
  · rw [← canAccept_eq_decide]
    exact hd.reqReady_eq
  · obtain rfl := joins_nil (by simp [canAccept_eq_false (.inl hfresh)]) hj
    rw [enter_nil]
    have hlist : c'.inflight = [] := hd.inflight_eq.trans hempty
    exact ⟨(finish_nil n hlist).1,
      by simp [Channel.portsNow, Channel.idlePorts, hlist, hd.fresh_eq, hfresh]⟩

/-- A channel on which the host presents nothing stays empty, in a live state with the rest of the
script. -/
theorem scripted_quiet_step {s : State} {inp : ChanIn} {rest : List HostEvent} {c : Channel}
    (hno : inp.reqValid = false) (hl : s.live = true) (hs : s.script = .cycle 0 inp :: rest)
    (hc : s.channels[0]? = some c) (hempty : c.inflight = []) :
    ∃ (t : State) (d : Channel), step s = .next t ∧ t.live = true ∧ t.script = rest ∧
      t.channels[0]? = some d ∧ d.inflight = [] ∧ d.fresh = false ∧
      d.startup = (if c.fresh then c.startup else c.startup - 1) ∧ d.reqReady = c.canAccept := by
  have hcycle : CycleOf s 0 c inp := ⟨hl, hc, .inl ⟨rest, hs⟩⟩
  obtain ⟨t, c', joined, n, hstep, hchannel, hd, hj, hlive, hscript⟩ := cycleOf_channel hcycle
  obtain rfl := joins_nil (by simp [hno]) hj
  rw [enter_nil] at hchannel
  rw [hs, List.tail_cons] at hscript
  obtain ⟨-, -, hempty'⟩ := finish_nil n (hd.inflight_eq.trans hempty)
  have hstartup : (c'.finish n).startup = if c.fresh then c.startup else c.startup - 1 := by
    rw [Channel.finish_startup, hd.fresh_eq, hd.startup_eq]
  exact ⟨t, _, hstep, hlive.trans hl, hscript, hchannel, hempty', Channel.finish_fresh _ _,
    hstartup, hd.reqReady_eq⟩

/-- One step, then the rest of the run. -/
theorem run_succ {s t : State} (n : Nat) (h : step s = .next t) :
    Host.Core.run Sys2Proof.core (n + 1) s = Host.Core.run Sys2Proof.core n t := by
  have hcore : Sys2Proof.core.step s = .next t := h
  simp only [Host.Core.run, hcore]

/-- In n + 1 cycles past the first one, `req_ready` in the last is 1 exactly when the delay that was
left is at most n. -/
theorem run_quiet_ready {inp : ChanIn} (hno : inp.reqValid = false) (n : Nat) {s : State}
    {c : Channel} (hl : s.live = true) (hs : s.script = List.replicate (n + 1) (.cycle 0 inp))
    (hc : s.channels[0]? = some c) (hempty : c.inflight = []) (hfresh : c.fresh = false) :
    ∃ (t : State) (d : Channel), Host.Core.run Sys2Proof.core (n + 1) s = .next t ∧
      t.channels[0]? = some d ∧ d.reqReady = decide (c.startup ≤ n) := by
  induction n generalizing s c with
  | zero =>
    obtain ⟨t, d, hstep, -, -, hd, -, -, -, hready⟩ := scripted_quiet_step hno hl hs hc hempty
    refine ⟨t, d, run_succ 0 hstep, hd, ?_⟩
    rw [hready, canAccept_eq_decide]
    simp [hfresh, hempty, fifoDepth_pos]
  | succ n ih =>
    obtain ⟨t, d, hstep, hlive, hscript, hd, hempty', hfresh', hstartup, -⟩ :=
      scripted_quiet_step hno hl hs hc hempty
    obtain ⟨u, e, hrun, he, hready⟩ := ih hlive hscript hd hempty' hfresh'
    refine ⟨u, e, (run_succ (n + 1) hstep).trans hrun, he, ?_⟩
    rw [hready, hstartup, hfresh]
    simp

/-- The run of n + 1 cycles without a request from reset. -/
theorem run_reset_ready {inp : ChanIn} (hno : inp.reqValid = false) (n : Nat) :
    ∃ (t : State) (c : Channel), Host.Core.run Sys2Proof.core (n + 1)
        { State.reset with script := List.replicate (n + 1) (.cycle 0 inp) } = .next t ∧
      t.channels[0]? = some c ∧ c.reqReady = decide (Config.readyDelay < n) := by
  obtain ⟨t, d, hstep, hlive, hscript, hd, hempty, hfresh, hstartup, hready⟩ :=
    scripted_quiet_step (s := { State.reset with script := List.replicate (n + 1) (.cycle 0 inp) })
      hno rfl rfl (c := Channel.reset) (List.getElem?_replicate_of_lt (Nat.succ_pos _)) rfl
  cases n with
  | zero => exact ⟨t, d, run_succ 0 hstep, hd, hready⟩
  | succ n =>
    obtain ⟨u, e, hrun, he, hready'⟩ := run_quiet_ready hno n hlive hscript hd hempty hfresh
    refine ⟨u, e, (run_succ (n + 1) hstep).trans hrun, he, ?_⟩
    rw [hready', hstartup]
    simp [Channel.reset]

/-- Settles O53: the reset cycle, one cycle of any channel, and, by induction on the number of cycles,
the run from reset. -/
theorem readyAfterTheDelay : Obligations.ReadyAfterTheDelay :=
  ⟨fun _ _ _ _ => reset_step_delay, fun _ _ _ _ => cycleOf_delay,
    fun n _ hno => run_reset_ready hno n⟩

/-! ### The instruction that a cycle runs -/

/-- A scripted cycle that accepts a request whose word decodes to `i` is `exec i` with the cycle around
it (20_memory R55). -/
theorem scripted_step_exec {s : State} {k : Nat} {inp : ChanIn} {rest : List HostEvent}
    {c : Channel} {i : Instr} (hl : s.live = true) (hs : s.script = .cycle k inp :: rest)
    (hc : s.channels[k]? = some c) (hv : inp.reqValid = true) (hr : c.canAccept = true)
    (hi : Sys2Proof.decode inp.req.cmd = .ok i) :
    step s = onNext (exec i (({ s with script := rest }).route inp.req))
      (fun t => t.endCycle k (c.drive inp)) := by
  have hacc : (c.drive inp).accepting = true := by simp [hv, hr]
  have hserve : serve (({ s with script := rest }).route inp.req) =
      exec i (({ s with script := rest }).route inp.req) := serve_legal hi
  rw [scripted_step hl hs hc, runChannel, if_pos hacc, Channel.drive_inp, hserve]

/-- Settles O44. -/
theorem stepRunsTheDecodedInstruction : Obligations.StepRunsTheDecodedInstruction := by
  unfold Obligations.StepRunsTheDecodedInstruction
  intro s k inp rest c i hl hs hc hv hr hi _
  exact scripted_step_exec hl hs hc hv hr hi

/-- An operation's own word decodes to it (30_encoding R63). -/
theorem decode_encode (i : Instr) : Sys2Proof.decode (Sys2Proof.encode i) = .ok i := by
  cases i <;> decide

/-- The ports that present an operation's word decode to it. -/
theorem decode_commandPorts (i : Instr) :
    Sys2Proof.decode (commandPorts (Sys2Proof.encode i).toNat).cmd = .ok i := by
  simpa [commandPorts] using decode_encode i

/-- A channel made ready accepts. -/
theorem makeReady_canAccept (c : Channel) : c.makeReady.canAccept = true := by
  have hroom : c.makeReady.inflight.length < Config.fifoDepth := by
    simp only [Channel.makeReady]
    split
    case isTrue h => exact h
    case isFalse => exact fifoDepth_pos
  rw [canAccept_eq_decide, decide_eq_true_eq]
  exact ⟨rfl, rfl, hroom⟩

/-- The first channel exists and accepts once made ready. -/
theorem readyFirst_canAccept (cs : List Channel) :
    ∃ c : Channel, (readyFirst cs)[0]? = some c ∧ c.canAccept = true := by
  cases cs with
  | nil => exact ⟨_, rfl, makeReady_canAccept _⟩
  | cons c rest => exact ⟨_, rfl, makeReady_canAccept c⟩

/-- Settles O47: the presented cycle is a scripted one whose channel accepts and whose word decodes. -/
theorem presentedCommandRunsNext : Obligations.PresentedCommandRunsNext := by
  unfold Obligations.PresentedCommandRunsNext
  intro s i
  obtain ⟨c, hc, hr⟩ := readyFirst_canAccept s.channels
  obtain ⟨r, m, hexec⟩ := exec_uniform i
    (portOperand (commandPorts (Sys2Proof.encode i).toNat)) s.free
  have hword : s.withFetchWord 8 (Sys2Proof.encode i).toNat =
      presentCommand s (Sys2Proof.encode i).toNat := by
    rw [State.withFetchWord, Nat.mod_eq_of_lt (Sys2Proof.encode i).isLt]
  have hstep := scripted_step_exec (s := presentCommand s (Sys2Proof.encode i).toNat) (k := 0)
    rfl rfl hc rfl hr (decode_commandPorts i)
  have hnext := hexec (({ s with live := true, channels := readyFirst s.channels }).route
    (commandPorts (Sys2Proof.encode i).toNat)) rfl rfl
  refine ⟨c, _, hc, hnext, ?_⟩
  rw [hword, hstep]
  exact congrArg (onNext · _) hnext

end Sys2Proof.Proofs

/-!
PROOFS. A key byte by byte, its number as the weighted sum of R42, and the frame of the operations
(20_memory R41, R42, R47, R48).
-/

namespace Sys2Proof.Proofs

open Sys2Proof.Machine

/-! ### Serialisation and parsing -/

/-- Byte i of a key is the field of the pattern that starts W − 8 − 8i bits up (20_memory R41). -/
theorem toBE_getElem? {w : Nat} (e : BitVec w) {i : Nat} (h : i < w / 8) :
    (toBE e)[i]? = some (BitVec.ofNat 8 (e.toNat / 2 ^ (w - 8 - 8 * i))) := by
  have hfield : e.extractLsb' (w - 8 - 8 * i) 8 =
      BitVec.ofNat 8 (e.toNat / 2 ^ (w - 8 - 8 * i)) :=
    BitVec.eq_of_toNat_eq (by simp [Nat.shiftRight_eq_div_pow])
  simp [toBE, h, hfield]

/-- Settles O7. -/
theorem serialisationIsBigEndian : Obligations.SerialisationIsBigEndian := by
  unfold Obligations.SerialisationIsBigEndian
  intro w _ e
  exact ⟨toBE_length e, fun i hi => toBE_getElem? e hi⟩

/-- The number of a byte sequence is the sum of its bytes, each times the weight of its place
(20_memory R42). -/
theorem fromBE_eq_sum (bs : List Byte) : fromBE bs =
    ((List.range bs.length).map fun i =>
      (bs.getD i 0).toNat * 256 ^ (bs.length - 1 - i)).sum := by
  induction bs with
  | nil => rfl
  | cons b bs ih =>
    have htail : (List.range bs.length).map
          ((fun i => ((b :: bs).getD i 0).toNat * 256 ^ (bs.length + 1 - 1 - i)) ∘ Nat.succ) =
        (List.range bs.length).map fun i =>
          (bs.getD i 0).toNat * 256 ^ (bs.length - 1 - i) := by
      refine List.map_congr_left fun i _ => ?_
      rw [Function.comp_apply, List.getD_cons_succ,
        show bs.length + 1 - 1 - i.succ = bs.length - 1 - i by omega]
    rw [fromBE_cons, List.length_cons, List.range_succ_eq_map, List.map_cons, List.map_map, htail,
      List.sum_cons, ← ih]
    rfl

/-- A key of W/8 bytes is the key of its own number. -/
theorem toBE_ofNat_fromBE {w : Nat} (hw : 8 ∣ w) {bs : List Byte} (h : bs.length = w / 8) :
    toBE (BitVec.ofNat w (fromBE bs)) = bs := by
  rw [← key_toNat hw, toNat_ofNat_fromBE hw h, key_fromBE hw h]

/-- Settles O8: every width is a whole number of bytes, which is all that the inverses need. -/
theorem parsingIsBigEndianAndInverts : Obligations.ParsingIsBigEndianAndInverts := by
  unfold Obligations.ParsingIsBigEndianAndInverts
  have hbytes : ∀ w ∈ [8, 16, 32, 64], 8 ∣ w := by decide
  exact ⟨fromBE_eq_sum, fun w hw => ⟨fromBE_toBE (hbytes w hw), fun bs hlen =>
    ⟨fromBE_lt_two_pow (hbytes w hw) hlen, toBE_ofNat_fromBE (hbytes w hw) hlen⟩⟩⟩

/-! ### The frame of the operations -/

/-- A float encode of a NaN answers and takes one free value (42_float R145). -/
theorem exec_nan_of_floatEncodeRule {i : Instr} {cmd : Cmd} {w : Nat} {op : BitVec w → Operand}
    {tag : Tag} (hrule : FloatEncodeRule i cmd w op tag) {s : State} {r : BitVec w}
    (hop : s.operand = op r) (hnan : isNaN r = true) :
    ∃ rsp, exec i s = .next { s.answer rsp with free := s.free + 1 } := by
  obtain ⟨-, -, hdraw, -⟩ := hrule
  obtain ⟨_, -, -, hexec⟩ := hdraw s r hop hnan
  exact ⟨_, hexec⟩

/-- A float decode of a key that gives a NaN answers and takes one free value (42_float R146). -/
theorem exec_nan_of_floatDecode_body {i : Instr} {cmd : Cmd} {w : Nat} {wrap : BitVec w → Result}
    {s : State} {bs : List Byte}
    (hbody : exec i s = afterCheck cmd (validateDec s.operand w)
      (fun bs => floatDecode cmd wrap bs s) s)
    (hop : s.operand = .bytes (w / 8) bs)
    (hnan : isNaN (fdec (BitVec.ofNat w (fromBE bs))) = true) :
    ∃ rsp, exec i s = .next { s.answer rsp with free := s.free + 1 } := by
  rw [hbody, hop, validateDec_ok, afterCheck_ok, floatDecode_nan cmd wrap s hnan]
  exact ⟨_, rfl⟩

/-- In a NaN case an operation answers and takes one free value. -/
theorem exec_of_nanTransaction {i : Instr} {s : State} (h : nanTransaction i s.operand = true) :
    ∃ rsp, exec i s = .next { s.answer rsp with free := s.free + 1 } := by
  unfold nanTransaction at h
  split at h
  next r hop => exact exec_nan_of_floatEncodeRule encF32_rule hop h
  next r hop => exact exec_nan_of_floatEncodeRule encF64_rule hop h
  next len bs hop =>
    rw [Bool.and_eq_true, beq_iff_eq] at h
    obtain ⟨rfl, hnan⟩ := h
    exact exec_nan_of_floatDecode_body rfl hop hnan
  next len bs hop =>
    rw [Bool.and_eq_true, beq_iff_eq] at h
    obtain ⟨rfl, hnan⟩ := h
    exact exec_nan_of_floatDecode_body rfl hop hnan
  next => exact absurd h (by decide)

/-- Settles O40: outside the NaN cases an operation is `State.answer`, in them `State.answer` and one
free value taken. -/
theorem operationsAnswerAndChangeNothingElse :
    Obligations.OperationsAnswerAndChangeNothingElse := by
  unfold Obligations.OperationsAnswerAndChangeNothingElse
  intro i s
  cases hnan : nanTransaction i s.operand with
  | false =>
    obtain ⟨r, hr⟩ := exec_alike hnan
    exact ⟨s.answer r, r, hr s rfl, rfl, rfl⟩
  | true =>
    obtain ⟨r, hr⟩ := exec_of_nanTransaction hnan
    exact ⟨_, r, hr, rfl, rfl⟩

end Sys2Proof.Proofs

/-!
PROOFS. The encoding: which command words are legal, the tag codes, and the ports of a request line
(30_encoding R61, R65, R70; 10_state R28).
-/

namespace Sys2Proof.Proofs

open Sys2Proof.Machine Sys2Proof.Machine.Ref

/-! ### Legal command words -/

/-- A word decodes to the operation of the codec that its fields name, and only with RSVD = 000
(30_encoding R60, R62). -/
theorem decode_eq_ok_iff {c : Cmd} {i : Instr} : Sys2Proof.decode c = .ok i ↔
    (splitCmd c).rsvd = 0b000#3 ∧ ∃ k, kindOfCode (splitCmd c).kind = some k ∧
      instrOfCodec ⟨dirOfCode (splitCmd c).dir, k, widthOfCode (splitCmd c).wcode⟩ = some i := by
  by_cases hrsvd : (splitCmd c).rsvd = 0b000#3
  · cases hkind : kindOfCode (splitCmd c).kind with
    | none => simp [Sys2Proof.decode, hrsvd, hkind]
    | some k =>
      cases hinstr : instrOfCodec
        ⟨dirOfCode (splitCmd c).dir, k, widthOfCode (splitCmd c).wcode⟩ <;>
        simp [Sys2Proof.decode, hrsvd, hkind, hinstr]
  · simp [Sys2Proof.decode, hrsvd]

/-- Exactly the well-formed codecs have an operation (00_scope R9; 30_encoding R63). -/
theorem exists_instrOfCodec_iff (c : Codec) : (∃ i, instrOfCodec c = some i) ↔ c.wf = true := by
  obtain ⟨dir, kind, width⟩ := c
  cases dir <;> cases kind <;> cases width <;> simp [instrOfCodec, Codec.wf]

/-- The codes that name a well-formed codec: KIND is not the reserved 11, and a float has WCODE 10 or
11 (30_encoding R60, R61). -/
theorem exists_wf_kindOfCode_iff (d : Dir) (kind wcode : BitVec 2) :
    (∃ k, kindOfCode kind = some k ∧ Codec.wf ⟨d, k, widthOfCode wcode⟩ = true) ↔
      kind ≠ 0b11#2 ∧ (kind = 0b10#2 → wcode = 0b10#2 ∨ wcode = 0b11#2) := by
  have hkind : kind = 0b00#2 ∨ kind = 0b01#2 ∨ kind = 0b10#2 ∨ kind = 0b11#2 := by
    revert kind; decide
  rcases hkind with rfl | rfl | rfl | rfl
  case inr.inr.inl =>
    have hwidth : Codec.wf ⟨d, .float, widthOfCode wcode⟩ = true ↔
        wcode = 0b10#2 ∨ wcode = 0b11#2 := by
      revert wcode; cases d <;> decide
    simp [kindOfCode, hwidth]
  all_goals simp [kindOfCode, Codec.wf]

/-- A word is legal exactly when its fields meet the three conditions of 30_encoding R61. -/
theorem exists_decode_iff (c : Cmd) : (∃ i, Sys2Proof.decode c = .ok i) ↔
    (splitCmd c).rsvd = 0b000#3 ∧ (splitCmd c).kind ≠ 0b11#2 ∧
      ((splitCmd c).kind = 0b10#2 →
        (splitCmd c).wcode = 0b10#2 ∨ (splitCmd c).wcode = 0b11#2) := by
  rw [← exists_wf_kindOfCode_iff (dirOfCode (splitCmd c).dir)]
  simp only [decode_eq_ok_iff, ← exists_instrOfCodec_iff]
  constructor
  · rintro ⟨i, hrsvd, k, hkind, hinstr⟩
    exact ⟨hrsvd, k, hkind, i, hinstr⟩
  · rintro ⟨hrsvd, k, hkind, i, hinstr⟩
    exact ⟨i, hrsvd, k, hkind, hinstr⟩

/-- Settles O4: the decoder's three tests are the three conditions, the 256 words are counted, and a
word without an operation is raised as ERR_ILLEGAL. -/
theorem legalExactlyWhenFieldsAllow : Obligations.LegalExactlyWhenFieldsAllow := by
  unfold Obligations.LegalExactlyWhenFieldsAllow
  refine ⟨exists_decode_iff, by decide, fun s hillegal => ?_⟩
  cases h : Sys2Proof.decode s.dp.req.cmd with
  | ok i => exact absurd h (hillegal i)
  | error g => exact serve_illegal h

/-! ### Tag codes -/

/-- The tag of a code has that code (30_encoding R65). -/
@[simp] theorem tagCode_tagOfCode (c : BitVec 3) : tagCode (tagOfCode c) = c := by
  revert c; decide

/-- The codes of OTHER are those with the high bit set (30_encoding R65). -/
theorem exists_tagOfCode_eq_other_iff (c : BitVec 3) :
    (∃ lo, tagOfCode c = .other lo) ↔ 4 ≤ c.toNat := by
  revert c; decide

/-- Settles O6. -/
theorem tagCodesAreTheTable : Obligations.TagCodesAreTheTable :=
  ⟨rfl, rfl, rfl, rfl, tagCode_tagOfCode, exists_tagOfCode_eq_other_iff⟩

/-! ### Driving the request ports -/

/-- A driven request has the driven command word. -/
@[simp] theorem drive_cmd (cmd : Cmd) (v : HostValue) : (drive cmd v).cmd = cmd := by
  cases v with
  | int v => simp only [drive]; split <;> rfl
  | _ => rfl

/-- At most 8 bytes fit the byte lane, right-aligned (10_state R28). -/
theorem toNat_byteLane {bs : List Byte} (h : bs.length ≤ 8) :
    (BitVec.ofNat 64 (fromBE bs)).toNat = fromBE bs := by
  have hfit : fromBE bs < 2 ^ 64 :=
    calc fromBE bs < 256 ^ bs.length := fromBE_lt bs
      _ ≤ 256 ^ 8 := Nat.pow_le_pow_right (by decide) h
  rw [BitVec.toNat_ofNat, Nat.mod_eq_of_lt hfit]

/-- Driving a host value presents it, whatever the command word (10_state R28). -/
theorem presentedOn_drive (cmd : Cmd) (v : HostValue) : PresentedOn v (drive cmd v) := by
  cases v with
  | int v =>
    by_cases hfits : -2 ^ 65 ≤ v ∧ v < 2 ^ 65
    · simp only [PresentedOn, IntOnPorts, drive, if_pos hfits, ReqPorts.zero, and_self]
    · simp only [PresentedOn, IntOnPorts, drive, if_neg hfits, and_self]
  | float32 b => exact ⟨rfl, by simp [drive, BitVec.extractLsb'_setWidth_of_le]⟩
  | float64 b => exact ⟨rfl, rfl⟩
  | bytes bs =>
    refine ⟨rfl, rfl, fun hshort => ?_⟩
    simp only [drive, if_pos hshort]
    rw [toNat_byteLane hshort, Nat.mod_eq_of_lt (fromBE_lt bs)]
  | other lo => exact ⟨rfl, trivial⟩

/-- Settles O38: a line's ports are its operand's value driven under its command word. -/
theorem requestLinesPresentTheirOperand : Obligations.RequestLinesPresentTheirOperand := by
  unfold Obligations.RequestLinesPresentTheirOperand
  intro l v hv
  exact ⟨drive (Asm.headWord l.head) v, by simp [Asm.assemble, hv], drive_cmd _ v,
    presentedOn_drive _ v⟩

end Sys2Proof.Proofs

/-!
PROOFS. The signed codec (40_signed_int): its rules, its transforms as the bias, and what follows for
its keys from the number of a key being the value plus 2^(W−1): order, round trip, and the unsigned key
of the offset value.
-/

namespace Sys2Proof.Proofs

open Sys2Proof.Machine

/-! ### The rules of the operations -/

/-- Settles O10. -/
theorem signedEncodeRules : Obligations.SignedEncodeRules := by
  unfold Obligations.SignedEncodeRules
  exact ⟨encS8_rule, encS16_rule, encS64_rule⟩

/-- Settles O11. -/
theorem signedDecodeRules : Obligations.SignedDecodeRules := by
  unfold Obligations.SignedDecodeRules
  exact ⟨decS8_rule, decS16_rule, decS64_rule⟩

/-! ### The transforms -/

/-- The widths of the integer codecs are positive, which is all that the transforms need. -/
theorem width_pos : ∀ w ∈ [8, 16, 32, 64], 0 < w := by decide

/-- `SDEC_W` reads the flipped pattern as two's complement (40_signed_int R101, first form). -/
theorem sdec_eq_ite {w : Nat} (hw : 0 < w) (e : BitVec w) :
    sdec e = if 2 ^ (w - 1) ≤ e.toNat ^^^ 2 ^ (w - 1)
      then ((e.toNat ^^^ 2 ^ (w - 1) : Nat) : Int) - 2 ^ w
      else ((e.toNat ^^^ 2 ^ (w - 1) : Nat) : Int) := by
  have hpow := mul_pow_sub_one hw.ne' 2
  rw [sdec, BitVec.toInt_eq_toNat_cond, BitVec.toNat_xor, toNat_signBit hw]
  split <;> split
  case isTrue.isTrue => omega
  case isTrue.isFalse => rfl
  case isFalse.isTrue => push_cast; rfl
  case isFalse.isFalse => omega

/-- `SDEC_W` gives a value in the codec's bounds (40_signed_int R101). -/
theorem sdec_mem_bounds {w : Nat} (hw : 0 < w) (e : BitVec w) :
    -2 ^ (w - 1) ≤ sdec e ∧ sdec e ≤ 2 ^ (w - 1) - 1 := by
  have he : (e.toNat : Int) < 2 ^ w := by exact_mod_cast e.isLt
  rw [← mul_pow_sub_one hw.ne'] at he
  rw [sdec_eq_sub hw]
  omega

/-- `SENC_W` is strictly increasing on the codec's bounds (40_signed_int R102). -/
theorem lt_iff_toNat_senc_lt {w : Nat} (hw : 0 < w) {a b : Int} (ha1 : -2 ^ (w - 1) ≤ a)
    (ha2 : a ≤ 2 ^ (w - 1) - 1) (hb1 : -2 ^ (w - 1) ≤ b) (hb2 : b ≤ 2 ^ (w - 1) - 1) :
    a < b ↔ (senc w a).toNat < (senc w b).toNat := by
  have ha := toNat_senc_eq_add hw ha1 ha2
  have hb := toNat_senc_eq_add hw hb1 hb2
  omega

/-- `SDEC_W` takes back what `SENC_W` adds (40_signed_int R111). -/
theorem sdec_senc {w : Nat} (hw : 0 < w) {v : Int} (h1 : -2 ^ (w - 1) ≤ v)
    (h2 : v ≤ 2 ^ (w - 1) - 1) : sdec (senc w v) = v := by
  rw [sdec_eq_sub hw, toNat_senc_eq_add hw h1 h2, Int.add_sub_cancel]

/-- `SENC_W` inverts `SDEC_W`: both flip the sign bit (40_signed_int R111). -/
theorem senc_sdec {w : Nat} (e : BitVec w) : senc w (sdec e) = e := by
  rw [senc, sdec, BitVec.ofInt_toInt, BitVec.xor_assoc, BitVec.xor_self, BitVec.xor_zero]

/-- Settles O12: in bounds the sum does not wrap, so it is its own residue. -/
theorem signedEncodeIsTheBias : Obligations.SignedEncodeIsTheBias := by
  unfold Obligations.SignedEncodeIsTheBias
  intro w hw v h1 h2
  have hpos := width_pos w hw
  have hsum := toNat_senc_eq_add hpos h1 h2
  have hmod : (v + 2 ^ (w - 1)) % 2 ^ w = v + 2 ^ (w - 1) :=
    Int.emod_eq_of_lt (by omega) (by rw [← mul_pow_sub_one hpos.ne']; omega)
  exact ⟨toNat_senc hpos v, hsum.trans hmod.symm, hsum⟩

/-- Settles O13. -/
theorem signedDecodeIsTheBias : Obligations.SignedDecodeIsTheBias := by
  unfold Obligations.SignedDecodeIsTheBias
  intro w hw e
  have hpos := width_pos w hw
  exact ⟨sdec_eq_ite hpos e, sdec_eq_sub hpos e, sdec_mem_bounds hpos e⟩

/-! ### Integer codecs whose keys are the value plus a bias -/

/-- The encode `i` gives every value in bounds a key of W/8 bytes whose number is the value plus
`bias`. -/
def EncodesWithBias (i : Instr) (w : Nat) (lo hi bias : Int) : Prop :=
  ∀ v, lo ≤ v → v ≤ hi →
    ∃ bs, bs.length = w / 8 ∧ (fromBE bs : Int) = v + bias ∧ EncodesTo i (intOp v) bs

/-- The decode `i` takes `bias` off the number of every key of W/8 bytes. -/
def DecodesWithBias (i : Instr) (w : Nat) (bias : Int) : Prop :=
  ∀ bs : List Byte, bs.length = w / 8 → DecodesTo i bs (.int ((fromBE bs : Int) - bias))

/-- The whole rule of an encode fixes its keys by their numbers. -/
theorem encodesWithBias_of_rule {i : Instr} {cmd : Cmd} {w : Nat} {lo hi bias : Int}
    {Pattern : Int → Nat → Prop} (hrule : IntEncodeRule i cmd w lo hi Pattern)
    (hbias : ∀ v e, Pattern v e → (e : Int) = v + bias) : EncodesWithBias i w lo hi bias := by
  obtain ⟨-, hkeys, -⟩ := hrule
  intro v h1 h2
  obtain ⟨bs, hlen, hnumber, henc, -⟩ := hkeys v h1 h2
  exact ⟨bs, hlen, hbias _ _ hnumber, henc⟩

/-- The whole rule of a decode fixes its values by the keys' numbers. -/
theorem decodesWithBias_of_rule {i : Instr} {cmd : Cmd} {w : Nat} {bias : Int}
    (hrule : IntDecodeRule i cmd w fun e v => v = (e : Int) - bias) :
    DecodesWithBias i w bias := by
  obtain ⟨-, hvalues, -⟩ := hrule
  intro bs hlen
  obtain ⟨_, rfl, hdec, -⟩ := hvalues bs hlen
  exact hdec

/-- The block can be presented with every integer that fits the port (10_state R28). -/
theorem exists_operand_eq_intOp {v : Int} (h1 : -2 ^ 65 ≤ v) (h2 : v < 2 ^ 65) :
    ∃ s : State, s.operand = intOp v := by
  refine ⟨State.reset.route (Ref.drive 0 (.int v)), ?_⟩
  rw [State.route_operand, portOperand_of_presented (presentedOn_drive 0 (.int v)), operandOf,
    Ref.portValue, if_pos ⟨h1, h2⟩, intOp]

/-- An operation gives an operand that can be presented one key at most. -/
theorem encodesTo_unique {i : Instr} {op : Operand} {bs bs' : List Byte}
    (hop : ∃ s : State, s.operand = op) (h : EncodesTo i op bs) (h' : EncodesTo i op bs') :
    bs = bs' := by
  obtain ⟨s, hs⟩ := hop
  simpa [h s hs] using h' s hs

/-- Biased keys sort as the values do, since keys of one length sort by their numbers. -/
theorem intOrderKept_of_bias {i : Instr} {w : Nat} {lo hi bias : Int}
    (henc : EncodesWithBias i w lo hi bias) : IntOrderKept i lo hi := by
  intro a b ha1 ha2 hb1 hb2
  obtain ⟨ka, halen, hanum, haenc⟩ := henc a ha1 ha2
  obtain ⟨kb, hblen, hbnum, hbenc⟩ := henc b hb1 hb2
  have hlen : ka.length = kb.length := halen.trans hblen.symm
  refine ⟨ka, kb, haenc, hbenc, ?_, ?_⟩
  · rw [lexLt_iff_fromBE_lt hlen]
    omega
  · rw [← fromBE_inj hlen]
    omega

/-- A biased encode and the decode that takes the same bias off are inverse when the biased bounds are
exactly [0, 2^W − 1]; the port carries every value in them. -/
theorem intRoundTrip_of_bias {enc dec : Instr} {w : Nat} {lo hi bias : Int}
    (henc : EncodesWithBias enc w lo hi bias) (hdec : DecodesWithBias dec w bias) (hdvd : 8 ∣ w)
    (hlo : lo + bias = 0) (hhi : hi + bias = 2 ^ w - 1) (hport : -2 ^ 65 ≤ lo ∧ hi < 2 ^ 65) :
    IntRoundTrip enc dec w lo hi := by
  refine ⟨fun v h1 h2 => ?decodesBack, fun bs hlen => ?keyOfOneValue⟩
  case decodesBack =>
    obtain ⟨bs, hlen, hnum, hkey⟩ := henc v h1 h2
    have hvalue := hdec bs hlen
    rw [hnum, Int.add_sub_cancel] at hvalue
    exact ⟨bs, hlen, hkey, hvalue⟩
  case keyOfOneValue =>
    have hlt : (fromBE bs : Int) < 2 ^ w := by exact_mod_cast fromBE_lt_two_pow hdvd hlen
    obtain ⟨ks, hklen, hknum, hkey⟩ := henc (fromBE bs - bias) (by omega) (by omega)
    obtain rfl : ks = bs := (fromBE_inj (hklen.trans hlen.symm)).1 (by omega)
    refine ⟨_, ⟨by omega, by omega, hkey⟩, fun v' h1 h2 hkey' => ?_⟩
    obtain ⟨ks', -, hnum', henc'⟩ := henc v' h1 h2
    obtain rfl := encodesTo_unique (exists_operand_eq_intOp (by omega) (by omega)) hkey' henc'
    omega

/-- A biased key is the unbiased key of the biased value: a number of W/8 bytes is one key only. -/
theorem sameKey_of_bias {enc encU : Instr} {w : Nat} {lo hi hiU bias v : Int}
    (henc : EncodesWithBias enc w lo hi bias) (hencU : EncodesWithBias encU w 0 hiU 0)
    (hlo : lo + bias = 0) (hhi : hi + bias = hiU) (h1 : lo ≤ v) (h2 : v ≤ hi) :
    ∃ bs, EncodesTo enc (intOp v) bs ∧ EncodesTo encU (intOp (v + bias)) bs := by
  obtain ⟨bs, hlen, hnum, hkey⟩ := henc v h1 h2
  obtain ⟨ks, hklen, hknum, hkeyU⟩ := hencU (v + bias) (by omega) (by omega)
  obtain rfl : ks = bs := (fromBE_inj (hklen.trans hlen.symm)).1 (by omega)
  exact ⟨ks, hkey, hkeyU⟩

/-! ### The biases of the operations -/

theorem encS8_bias : EncodesWithBias .encS8 8 (-128) 127 (2 ^ 7) :=
  encodesWithBias_of_rule encS8_rule fun _ _ ⟨_, hsum⟩ => hsum

theorem encS16_bias : EncodesWithBias .encS16 16 (-32768) 32767 (2 ^ 15) :=
  encodesWithBias_of_rule encS16_rule fun _ _ ⟨_, hsum⟩ => hsum

theorem encS32_bias : EncodesWithBias .encS32 32 (-2147483648) 2147483647 (2 ^ 31) :=
  encodesWithBias_of_rule encS32_rule fun _ _ ⟨_, hsum⟩ => hsum

theorem encS64_bias : EncodesWithBias .encS64 64 (-2 ^ 63) (2 ^ 63 - 1) (2 ^ 63) :=
  encodesWithBias_of_rule encS64_rule fun _ _ ⟨_, hsum⟩ => hsum

theorem encU8_bias : EncodesWithBias .encU8 8 0 255 0 :=
  encodesWithBias_of_rule encU8_rule fun _ _ hsum => by omega

theorem encU16_bias : EncodesWithBias .encU16 16 0 65535 0 :=
  encodesWithBias_of_rule encU16_rule fun _ _ hsum => by omega

theorem encU32_bias : EncodesWithBias .encU32 32 0 4294967295 0 :=
  encodesWithBias_of_rule encU32_rule fun _ _ hsum => by omega

theorem encU64_bias : EncodesWithBias .encU64 64 0 (2 ^ 64 - 1) 0 :=
  encodesWithBias_of_rule encU64_rule fun _ _ hsum => by omega

/-! ### Order, round trip and the unsigned key -/

/-- Settles O14: each signed key's number is its value plus a bias, and so is the transform. -/
theorem signedKeysKeepTheOrder : Obligations.SignedKeysKeepTheOrder := by
  unfold Obligations.SignedKeysKeepTheOrder
  exact ⟨fun w hw _ _ => lt_iff_toNat_senc_lt (width_pos w hw), intOrderKept_of_bias encS8_bias,
    intOrderKept_of_bias encS16_bias, intOrderKept_of_bias encS32_bias,
    intOrderKept_of_bias encS64_bias⟩

/-- Settles O15: encode and decode of a width add and take off one bias, which moves the bounds to
[0, 2^W − 1]. -/
theorem signedCodecsAreBijections : Obligations.SignedCodecsAreBijections := by
  unfold Obligations.SignedCodecsAreBijections
  refine ⟨fun w hw => ⟨fun _ => sdec_senc (width_pos w hw), senc_sdec⟩, ?_, ?_, ?_, ?_⟩
  · exact intRoundTrip_of_bias encS8_bias (decodesWithBias_of_rule decS8_rule) (by decide)
      (by decide) (by decide) (by decide)
  · exact intRoundTrip_of_bias encS16_bias (decodesWithBias_of_rule decS16_rule) (by decide)
      (by decide) (by decide) (by decide)
  · exact intRoundTrip_of_bias encS32_bias (decodesWithBias_of_rule decS32_rule) (by decide)
      (by decide) (by decide) (by decide)
  · exact intRoundTrip_of_bias encS64_bias (decodesWithBias_of_rule decS64_rule) (by decide)
      (by decide) (by decide) (by decide)

/-- Settles O16: the bias moves the signed bounds onto the unsigned ones. -/
theorem signedKeyIsTheOffsetUnsignedKey : Obligations.SignedKeyIsTheOffsetUnsignedKey := by
  unfold Obligations.SignedKeyIsTheOffsetUnsignedKey
  exact ⟨fun _ => sameKey_of_bias encS8_bias encU8_bias (by decide) (by decide),
    fun _ => sameKey_of_bias encS16_bias encU16_bias (by decide) (by decide),
    fun _ => sameKey_of_bias encS32_bias encU32_bias (by decide) (by decide),
    fun _ => sameKey_of_bias encS64_bias encU64_bias (by decide) (by decide)⟩

end Sys2Proof.Proofs

/-!
PROOFS. The unsigned codec (41_unsigned_int): its rules, its transforms as inverses, and its keys as
those of the bias 0, from which their order and round trip follow as for the signed ones.
-/

namespace Sys2Proof.Proofs

open Sys2Proof.Machine

/-! ### The rules of the operations -/

/-- Settles O17. -/
theorem unsignedEncodeRules : Obligations.UnsignedEncodeRules := by
  unfold Obligations.UnsignedEncodeRules
  exact ⟨encU8_rule, encU16_rule, encU64_rule⟩

/-- Settles O18. -/
theorem unsignedDecodeRules : Obligations.UnsignedDecodeRules := by
  unfold Obligations.UnsignedDecodeRules
  exact ⟨decU8_rule, decU16_rule, decU64_rule⟩

/-! ### The transforms -/

/-- `UDEC_W` reads back what `UENC_W` writes of a value in bounds (41_unsigned_int R130). -/
theorem udec_uenc {w : Nat} {v : Int} (h1 : 0 ≤ v) (h2 : v ≤ 2 ^ w - 1) : udec (uenc w v) = v :=
  toNat_uenc h1 (Int.lt_of_le_sub_one h2)

/-- `UENC_W` writes back every pattern that `UDEC_W` reads (41_unsigned_int R130). -/
theorem uenc_udec {w : Nat} (e : BitVec w) : uenc w (udec e) = e := by
  rw [uenc, udec, BitVec.ofInt_natCast, BitVec.ofNat_toNat, BitVec.setWidth_eq]

/-! ### Order and round trip -/

/-- The value of an unsigned key is its number, so the bias its decode takes off is 0. -/
theorem decodesWithBias_zero_of_rule {i : Instr} {cmd : Cmd} {w : Nat}
    (hrule : IntDecodeRule i cmd w fun e v => v = e) : DecodesWithBias i w 0 :=
  decodesWithBias_of_rule (by simpa only [Int.sub_zero] using hrule)

/-- Settles O19: encode and decode of a width both have the bias 0, and the unsigned bounds are
[0, 2^W − 1] as they stand. -/
theorem unsignedCodecsAreBijections : Obligations.UnsignedCodecsAreBijections := by
  unfold Obligations.UnsignedCodecsAreBijections
  refine ⟨fun _ _ => ⟨fun _ => udec_uenc, uenc_udec⟩, ?_, ?_, ?_, ?_⟩
  · exact intRoundTrip_of_bias encU8_bias (decodesWithBias_zero_of_rule decU8_rule) (by decide)
      (by decide) (by decide) (by decide)
  · exact intRoundTrip_of_bias encU16_bias (decodesWithBias_zero_of_rule decU16_rule) (by decide)
      (by decide) (by decide) (by decide)
  · exact intRoundTrip_of_bias encU32_bias (decodesWithBias_zero_of_rule decU32_rule) (by decide)
      (by decide) (by decide) (by decide)
  · exact intRoundTrip_of_bias encU64_bias (decodesWithBias_zero_of_rule decU64_rule) (by decide)
      (by decide) (by decide) (by decide)

/-- Settles O20: each unsigned key's number is its value. -/
theorem unsignedKeysKeepTheOrder : Obligations.UnsignedKeysKeepTheOrder := by
  unfold Obligations.UnsignedKeysKeepTheOrder
  exact ⟨intOrderKept_of_bias encU8_bias, intOrderKept_of_bias encU16_bias,
    intOrderKept_of_bias encU32_bias, intOrderKept_of_bias encU64_bias⟩

end Sys2Proof.Proofs

/-!
PROOFS. The float codec (42_float): its rules, its transforms as inverses, the NaN patterns and
keys, and the order of its keys as that of the IEEE-754 values.
-/

namespace Sys2Proof.Proofs

open Sys2Proof.Machine

/-! ### The rules of the operations -/

/-- Settles O22. -/
theorem floatEncodeRules : Obligations.FloatEncodeRules := by
  unfold Obligations.FloatEncodeRules
  exact ⟨encF32_rule, encF64_rule⟩

/-- Settles O23. -/
theorem floatDecodeRules : Obligations.FloatDecodeRules := by
  unfold Obligations.FloatDecodeRules
  exact ⟨decF32_rule, decF64_rule⟩

/-- Settles O24: under DRAW each response of the two forms is the response of its own draw. -/
theorem nanPolicyAdmitsExactlyTheDraws : Obligations.NanPolicyAdmitsExactlyTheDraws := by
  unfold Obligations.NanPolicyAdmitsExactlyTheDraws
  intro w _ cmd wrap m
  refine ⟨fun _ => rfl, fun r => ⟨?drawn, ?allowed⟩⟩
  case drawn =>
    rintro ⟨d, rfl⟩
    cases d with
    | answer x => exact .inl ⟨x, rfl⟩
    | error e => exact .inr ⟨e, rfl⟩
  case allowed =>
    rintro (⟨x, rfl⟩ | ⟨e, rfl⟩)
    · exact ⟨.answer x, rfl⟩
    · exact ⟨.error e, rfl⟩

/-! ### The transforms -/

/-- The widths of the float codecs are positive, which is all that the transforms need. -/
theorem floatWidth_pos : ∀ w ∈ [32, 64], 0 < w := by decide

/-- Forcing the sign bit of a pattern without it adds 2^(W−1) (42_float R143). -/
theorem or_topBit {k x : Nat} (hx : x < 2 ^ k) : x ||| 2 ^ k = x + 2 ^ k := by
  rw [Nat.lor_comm, Nat.add_comm]
  simpa using (Nat.two_pow_add_eq_or_of_lt hx 1).symm

/-- Settles O26. -/
theorem floatEncodeTransform : Obligations.FloatEncodeTransform := by
  unfold Obligations.FloatEncodeTransform
  intro w hw r
  have hpos := floatWidth_pos w hw
  have hpow := mul_pow_sub_one hpos.ne' 2
  rw [toNat_fenc hpos]
  refine ⟨fun hneg => ?_, fun hnonneg => ?_⟩
  · rw [if_pos hneg]
    omega
  · rw [if_neg hnonneg.not_ge, or_topBit hnonneg]
    exact ⟨rfl, rfl⟩

/-- `FDEC_W` clears the sign bit of a key that has it (42_float R144). -/
theorem fdec_of_signBit {w : Nat} {e : BitVec w} (h : 2 ^ (w - 1) ≤ e.toNat) :
    fdec e = e &&& ~~~(signBit w) := by
  rw [fdec, BitVec.msb_eq_decide, decide_eq_true h, if_pos rfl]

/-- Settles O27. -/
theorem floatDecodeTransform : Obligations.FloatDecodeTransform := by
  unfold Obligations.FloatDecodeTransform
  intro w hw e
  rw [toNat_fdec (floatWidth_pos w hw), Ref.floatValue]
  exact ⟨fun h => if_neg h.not_ge, fun h => ⟨fdec_of_signBit h, if_pos h⟩⟩

/-- `FDEC_W` inverts `FENC_W` on every pattern (42_float R153). -/
theorem fdec_fenc {w : Nat} (hw : 0 < w) (r : BitVec w) : fdec (fenc r) = r := by
  have hpow := mul_pow_sub_one hw.ne' 2
  have hr := r.isLt
  apply BitVec.eq_of_toNat_eq
  rw [toNat_fdec hw, Ref.floatValue, toNat_fenc hw]
  split <;> split <;> omega

/-- A canonical pattern is its own canonical pattern (42_float R142). -/
@[simp] theorem canonZero_canonZero {w : Nat} (r : BitVec w) :
    canonZero (canonZero r) = canonZero r := by
  by_cases h : r = signBit w <;> simp [canonZero, h]

/-- A pattern that is no NaN has a canonical pattern that is none (42_float R141, R142). -/
theorem isNaN_canonZero {w : Nat} {r : BitVec w} (h : isNaN r = false) :
    isNaN (canonZero r) = false := by
  unfold canonZero
  split
  · simp [isNaN, fraction]
  · exact h

/-- Decoding and encoding again moves one key only: the one that decodes to −0.0, which
goes to the key of +0.0 (42_float R147, R156). -/
theorem fenc_canonZero_fdec_iff {w : Nat} (hw : 0 < w) (e : BitVec w) :
    fenc (canonZero (fdec e)) = e ↔ e.toNat ≠ 2 ^ (w - 1) - 1 := by
  have hpow := mul_pow_sub_one hw.ne' 2
  have hhalf : 0 < 2 ^ (w - 1) := Nat.two_pow_pos _
  have he := e.isLt
  rw [← BitVec.toNat_inj, toNat_fenc_canonZero hw, toNat_fdec hw, Ref.floatValue, Ref.floatKey]
  split_ifs <;> omega

/-! ### NaN patterns and NaN keys -/

/-- Settles O25. -/
theorem nanPatternsAreTheRanges : Obligations.NanPatternsAreTheRanges := by
  unfold Obligations.NanPatternsAreTheRanges
  refine ⟨fun r => ?_, fun r => ?_⟩
  · simp [isNaN_eq_nanPattern32, Ref.nanPattern]
  · simp [isNaN_eq_nanPattern64, Ref.nanPattern]

/-- The binary32 keys that decode to a NaN pattern (42_float R156). -/
theorem isNaN_fdec_iff32 (e : BitVec 32) : isNaN (fdec e) = true ↔
    e.toNat ≤ 0x007FFFFE ∨ (0xFF800001 ≤ e.toNat ∧ e.toNat ≤ 0xFFFFFFFF) := by
  rw [isNaN_eq_nanPattern32, toNat_fdec (by decide), nanPattern_floatValue32 e.isLt]
  simp [Ref.nanKey]

/-- The binary64 keys that decode to a NaN pattern (42_float R156). -/
theorem isNaN_fdec_iff64 (e : BitVec 64) : isNaN (fdec e) = true ↔
    e.toNat ≤ 0x000FFFFFFFFFFFFE ∨
      (0xFFF0000000000001 ≤ e.toNat ∧ e.toNat ≤ 0xFFFFFFFFFFFFFFFF) := by
  rw [isNaN_eq_nanPattern64, toNat_fdec (by decide), nanPattern_floatValue64 e.isLt]
  simp [Ref.nanKey]

/-- Settles O31. -/
theorem nanKeysAreTheRanges : Obligations.NanKeysAreTheRanges := by
  unfold Obligations.NanKeysAreTheRanges
  exact ⟨isNaN_fdec_iff32, isNaN_fdec_iff64,
    fun w hw => fenc_canonZero_fdec_iff (floatWidth_pos w hw)⟩

/-! ### The keys and values that the rules give -/

/-- A float encode gives a pattern that is no NaN the key of its transform (42_float R149, R150). -/
theorem encodesTo_of_floatEncodeRule {i : Instr} {cmd : Cmd} {w : Nat} {op : BitVec w → Operand}
    {tag : Tag} (hrule : FloatEncodeRule i cmd w op tag) (hdvd : 8 ∣ w) (hw : 0 < w)
    {r : BitVec w} (hnan : isNaN r = false) :
    EncodesTo i (op r) (toBE (fenc (canonZero r))) := by
  obtain ⟨-, hkeys, -⟩ := hrule
  obtain ⟨bs, hlen, hnumber, henc, -⟩ := hkeys r hnan
  have hbs : bs = toBE (fenc (canonZero r)) := (fromBE_inj (by rw [hlen, toBE_length])).1 <| by
    rw [hnumber, fromBE_toBE hdvd, toNat_fenc_canonZero hw]
  exact hbs ▸ henc

/-- A float decode gives a key whose transform is no NaN the value of it (42_float R151, R152). -/
theorem decodesTo_of_floatDecodeRule {i : Instr} {cmd : Cmd} {w : Nat} {wrap : BitVec w → Result}
    (hrule : FloatDecodeRule i cmd w wrap) (hdvd : 8 ∣ w) (hw : 0 < w) {e : BitVec w}
    (hnan : isNaN (fdec e) = false) : DecodesTo i (toBE e) (wrap (fdec e)) := by
  obtain ⟨-, hvalues, -⟩ := hrule
  have hvalue : BitVec.ofNat w (Ref.floatValue w (fromBE (toBE e))) = fdec e := by
    rw [fromBE_toBE hdvd, ← toNat_fdec hw, BitVec.ofNat_toNat, BitVec.setWidth_eq]
  have hdec := hvalues (toBE e) (toBE_length e)
  rw [hvalue] at hdec
  exact hdec hnan

/-- Settles O32: the two patterns are no NaN, so the rules give the key and the value. -/
theorem keyOfNoValueDecodesToNegativeZero : Obligations.KeyOfNoValueDecodesToNegativeZero := by
  unfold Obligations.KeyOfNoValueDecodesToNegativeZero
  refine ⟨?_, ?_, ?_, ?_⟩
  · exact decodesTo_of_floatDecodeRule decF32_rule (e := 0x7FFFFFFF#32) (by decide) (by decide)
      (by decide)
  · exact encodesTo_of_floatEncodeRule encF32_rule (r := 0x80000000#32) (by decide) (by decide)
      (by decide)
  · exact decodesTo_of_floatDecodeRule decF64_rule (e := 0x7FFFFFFFFFFFFFFF#64) (by decide)
      (by decide) (by decide)
  · exact encodesTo_of_floatEncodeRule encF64_rule (r := 0x8000000000000000#64) (by decide)
      (by decide) (by decide)

/-! ### Round trip -/

/-- The decode of a format gives back the canonical pattern from its key. -/
theorem roundTrip_of_floatRules {enc dec : Instr} {cmd cmd' : Cmd} {w : Nat}
    {op : BitVec w → Operand} {tag : Tag} {wrap : BitVec w → Result}
    (henc : FloatEncodeRule enc cmd w op tag) (hdec : FloatDecodeRule dec cmd' w wrap)
    (hdvd : 8 ∣ w) (hw : 0 < w) {r : BitVec w} (hnan : isNaN r = false) :
    ∃ bs, EncodesTo enc (op r) bs ∧ DecodesTo dec bs (wrap (canonZero r)) := by
  have hback := fdec_fenc hw (canonZero r)
  have hvalue := decodesTo_of_floatDecodeRule hdec hdvd hw (e := fenc (canonZero r))
  rw [hback] at hvalue
  exact ⟨_, encodesTo_of_floatEncodeRule henc hdvd hw hnan, hvalue (isNaN_canonZero hnan)⟩

/-- Settles O28: `FDEC_W` inverts `FENC_W`, and `canonZero` moves −0.0 alone. -/
theorem floatRoundTrip : Obligations.FloatRoundTrip := by
  unfold Obligations.FloatRoundTrip
  exact ⟨fun w hw r => fdec_fenc (floatWidth_pos w hw) (canonZero r),
    fun _ => roundTrip_of_floatRules encF32_rule decF32_rule (by decide) (by decide),
    fun _ => roundTrip_of_floatRules encF64_rule decF64_rule (by decide) (by decide)⟩

/-! ### The image of the encode -/

/-- The keys of the patterns that are no NaN: those that decode to no NaN and not to
−0.0. -/
theorem exists_fenc_canonZero_iff {w : Nat} (hw : 0 < w) (e : BitVec w) :
    (∃ r, isNaN r = false ∧ fenc (canonZero r) = e) ↔
      isNaN (fdec e) = false ∧ e.toNat ≠ 2 ^ (w - 1) - 1 := by
  rw [← fenc_canonZero_fdec_iff hw]
  constructor
  · rintro ⟨r, hnan, rfl⟩
    rw [fdec_fenc hw, canonZero_canonZero]
    exact ⟨isNaN_canonZero hnan, rfl⟩
  · rintro ⟨hnan, hback⟩
    exact ⟨fdec e, hnan, hback⟩

/-- The block can be presented with what it reads of any host value (10_state R28). -/
theorem exists_operand_eq_operandOf (v : Ref.HostValue) : ∃ s : State, s.operand = operandOf v :=
  ⟨State.reset.route (Ref.drive 0 v), portOperand_of_presented (presentedOn_drive 0 v)⟩

/-- A byte sequence is a key of a float encode exactly when it has W/8 bytes and decodes
neither to a NaN nor to −0.0. -/
theorem exists_encodesTo_iff {i : Instr} {cmd : Cmd} {w : Nat} {op : BitVec w → Operand}
    {tag : Tag} (hrule : FloatEncodeRule i cmd w op tag) (hdvd : 8 ∣ w) (hw : 0 < w)
    (hop : ∀ r, ∃ s : State, s.operand = op r) (bs : List Byte) :
    (∃ r, isNaN r = false ∧ EncodesTo i (op r) bs) ↔
      bs.length = w / 8 ∧ isNaN (fdec (BitVec.ofNat w (fromBE bs))) = false ∧
        fromBE bs ≠ 2 ^ (w - 1) - 1 := by
  constructor
  · rintro ⟨r, hnan, henc⟩
    obtain rfl := encodesTo_unique (hop r) henc (encodesTo_of_floatEncodeRule hrule hdvd hw hnan)
    have himage := (exists_fenc_canonZero_iff hw _).1 ⟨r, hnan, rfl⟩
    rw [fromBE_toBE hdvd, BitVec.ofNat_toNat, BitVec.setWidth_eq]
    exact ⟨toBE_length _, himage⟩
  · rintro ⟨hlen, hdec, hne⟩
    rw [← toNat_ofNat_fromBE hdvd hlen] at hne
    obtain ⟨r, hnan, hkey⟩ := (exists_fenc_canonZero_iff hw _).2 ⟨hdec, hne⟩
    have henc := encodesTo_of_floatEncodeRule hrule hdvd hw hnan
    rw [hkey, toBE_ofNat_fromBE hdvd hlen] at henc
    exact ⟨r, hnan, henc⟩

/-- Settles O30: the two ranges are the keys that decode to no NaN, without the one between them
that decodes to −0.0; and `FDEC_W` gives the canonical pattern back. -/
theorem floatKeysAreExactlyTheImage : Obligations.FloatKeysAreExactlyTheImage := by
  unfold Obligations.FloatKeysAreExactlyTheImage
  refine ⟨fun bs => ?binary32, fun bs => ?binary64, fun w hw a b h => ?injective⟩
  case binary32 =>
    rw [exists_encodesTo_iff encF32_rule (by decide) (by decide)
      (fun r => exists_operand_eq_operandOf (.float32 r))]
    refine and_congr_right fun hlen => ?_
    have hlt := fromBE_lt_two_pow (w := 32) (by decide) hlen
    rw [← Bool.not_eq_true, isNaN_fdec_iff32, toNat_ofNat_fromBE (by decide) hlen]
    omega
  case binary64 =>
    rw [exists_encodesTo_iff encF64_rule (by decide) (by decide)
      (fun r => exists_operand_eq_operandOf (.float64 r))]
    refine and_congr_right fun hlen => ?_
    have hlt := fromBE_lt_two_pow (w := 64) (by decide) hlen
    rw [← Bool.not_eq_true, isNaN_fdec_iff64, toNat_ofNat_fromBE (by decide) hlen]
    omega
  case injective =>
    have hpos := floatWidth_pos w hw
    rw [← fdec_fenc hpos (canonZero a), h, fdec_fenc hpos]

/-! ### The order of the IEEE-754 values -/

/-- The magnitude of the pattern whose exponent and fraction fields together are the number `m`,
with `f` fraction bits (00_scope R16). -/
def magnitudeOf (f m : Nat) : Nat :=
  if m / 2 ^ f = 0 then m % 2 ^ f else (2 ^ f + m % 2 ^ f) * 2 ^ (m / 2 ^ f - 1)

/-- A magnitude is that of the pattern without its sign bit. -/
theorem ieeeMagnitude_eq {w : Nat} (hf : fractionBits w ≤ w - 1) (r : BitVec w) :
    ieeeMagnitude r = magnitudeOf (fractionBits w) (r.toNat % 2 ^ (w - 1)) := by
  have hsplit : 2 ^ (w - 1) = 2 ^ fractionBits w * 2 ^ exponentBits w := by
    rw [exponentBits, ← pow_add, Nat.add_sub_cancel' hf]
  have hexp : (exponent r).toNat = r.toNat % 2 ^ (w - 1) / 2 ^ fractionBits w := by
    rw [hsplit, Nat.mod_mul_right_div_self]
    simp [exponent, Nat.shiftRight_eq_div_pow]
  have hfrac : (fraction r).toNat = r.toNat % 2 ^ (w - 1) % 2 ^ fractionBits w := by
    rw [hsplit, Nat.mod_mul_right_mod]
    simp [fraction]
  rw [ieeeMagnitude, magnitudeOf, hexp, hfrac]

/-- A magnitude lies below those of the next exponent. -/
theorem magnitudeOf_lt (f m : Nat) : magnitudeOf f m < 2 ^ f * 2 ^ (m / 2 ^ f) := by
  have hfrac : m % 2 ^ f < 2 ^ f := Nat.mod_lt _ (Nat.two_pow_pos f)
  unfold magnitudeOf
  split
  case isTrue h => simpa [h] using hfrac
  case isFalse h =>
    rw [← mul_pow_sub_one h 2, ← mul_assoc]
    exact Nat.mul_lt_mul_of_pos_right (by omega) (Nat.two_pow_pos _)

/-- A magnitude with a non-zero exponent is at least that of its exponent with the fraction 0. -/
theorem le_magnitudeOf {f m : Nat} (h : m / 2 ^ f ≠ 0) :
    2 ^ f * 2 ^ (m / 2 ^ f - 1) ≤ magnitudeOf f m := by
  rw [magnitudeOf, if_neg h]
  exact Nat.mul_le_mul_right _ (Nat.le_add_right _ _)

/-- The magnitude grows with the number that exponent and fraction form: under one exponent with the
fraction, and beyond it because every higher exponent starts above. -/
theorem magnitudeOf_strictMono (f : Nat) : StrictMono (magnitudeOf f) := by
  intro m n hmn
  rcases (Nat.div_le_div_right hmn.le : m / 2 ^ f ≤ n / 2 ^ f).eq_or_lt with hexp | hexp
  · have hfrac : m % 2 ^ f < n % 2 ^ f := by
      have hm := Nat.div_add_mod m (2 ^ f)
      have hn := Nat.div_add_mod n (2 ^ f)
      rw [hexp] at hm
      omega
    unfold magnitudeOf
    rw [hexp]
    split
    · exact hfrac
    · exact Nat.mul_lt_mul_of_pos_right (by omega) (Nat.two_pow_pos _)
  · calc magnitudeOf f m < 2 ^ f * 2 ^ (m / 2 ^ f) := magnitudeOf_lt f m
      _ ≤ 2 ^ f * 2 ^ (n / 2 ^ f - 1) :=
        Nat.mul_le_mul_left _ (Nat.pow_le_pow_right (by decide) (Nat.le_sub_one_of_lt hexp))
      _ ≤ magnitudeOf f n := le_magnitudeOf (Nat.ne_zero_of_lt hexp)

@[simp] theorem magnitudeOf_zero (f : Nat) : magnitudeOf f 0 = 0 := by simp [magnitudeOf]

/-- The value of a pattern by its number: a negative one has the magnitude of what its sign bit
leaves. -/
theorem ieeeValue_eq {w : Nat} (hw : 0 < w) (hf : fractionBits w ≤ w - 1) (r : BitVec w) :
    ieeeValue r =
      if 2 ^ (w - 1) ≤ r.toNat then -(magnitudeOf (fractionBits w) (r.toNat - 2 ^ (w - 1)) : Int)
      else magnitudeOf (fractionBits w) r.toNat := by
  have hpow := mul_pow_sub_one hw.ne' 2
  have hr := r.isLt
  rw [ieeeValue, ieeeMagnitude_eq hf, BitVec.msb_eq_decide]
  by_cases h : 2 ^ (w - 1) ≤ r.toNat
  · rw [if_pos h, decide_eq_true h, if_pos rfl, Nat.mod_eq_sub_mod h, Nat.mod_eq_of_lt (by omega)]
  · rw [if_neg h, decide_eq_false h, Nat.mod_eq_of_lt (by omega)]
    rfl

/-- Values compare as the numbers of their keys (42_float R154). Patterns of one sign compare by
their magnitudes, which are strictly monotone; those of two signs by which of them are zeros. -/
theorem ieeeValue_lt_iff {w : Nat} (hw : 0 < w) (hf : fractionBits w ≤ w - 1) (a b : BitVec w) :
    ieeeValue a < ieeeValue b ↔
      (fenc (canonZero a)).toNat < (fenc (canonZero b)).toNat := by
  have hpow := mul_pow_sub_one hw.ne' 2
  have ha := a.isLt
  have hb := b.isLt
  have hlt (m n : Nat) :
      magnitudeOf (fractionBits w) m < magnitudeOf (fractionBits w) n ↔ m < n :=
    (magnitudeOf_strictMono _).lt_iff_lt
  have hpos (m : Nat) : 0 < magnitudeOf (fractionBits w) m ↔ 0 < m := by simpa using hlt 0 m
  rw [ieeeValue_eq hw hf, ieeeValue_eq hw hf, toNat_fenc_canonZero hw, toNat_fenc_canonZero hw,
    Ref.floatKey, Ref.floatKey]
  by_cases hna : 2 ^ (w - 1) ≤ a.toNat
  · by_cases hnb : 2 ^ (w - 1) ≤ b.toNat
    · have hmag := hlt (b.toNat - 2 ^ (w - 1)) (a.toNat - 2 ^ (w - 1))
      rw [if_pos hna, if_pos hnb]
      split_ifs <;> omega
    · have hza := hpos (a.toNat - 2 ^ (w - 1))
      have hzb := hpos b.toNat
      rw [if_pos hna, if_neg hnb]
      split_ifs <;> omega
  · by_cases hnb : 2 ^ (w - 1) ≤ b.toNat
    · rw [if_neg hna, if_pos hnb]
      split_ifs <;> omega
    · have hmag := hlt a.toNat b.toNat
      rw [if_neg hna, if_neg hnb]
      split_ifs <;> omega

/-- A float encode whose format has room for its fields gives keys that sort as the values do. -/
theorem orderKept_of_floatEncodeRule {i : Instr} {cmd : Cmd} {w : Nat} {op : BitVec w → Operand}
    {tag : Tag} (hrule : FloatEncodeRule i cmd w op tag) (hdvd : 8 ∣ w) (hw : 0 < w)
    (hf : fractionBits w ≤ w - 1) {a b : BitVec w} (ha : isNaN a = false) (hb : isNaN b = false) :
    ∃ ka kb, EncodesTo i (op a) ka ∧ EncodesTo i (op b) kb ∧
      (ieeeValue a < ieeeValue b ↔ lexLt ka kb) ∧ (ieeeValue a = ieeeValue b ↔ ka = kb) := by
  have hlen : (toBE (fenc (canonZero a))).length = (toBE (fenc (canonZero b))).length := by
    rw [toBE_length, toBE_length]
  refine ⟨_, _, encodesTo_of_floatEncodeRule hrule hdvd hw ha,
    encodesTo_of_floatEncodeRule hrule hdvd hw hb, ?_, ?_⟩
  · rw [lexLt_iff_fromBE_lt hlen, fromBE_toBE hdvd, fromBE_toBE hdvd, ieeeValue_lt_iff hw hf]
  · rw [← fromBE_inj hlen, fromBE_toBE hdvd, fromBE_toBE hdvd]
    have hlt := ieeeValue_lt_iff hw hf a b
    have hgt := ieeeValue_lt_iff hw hf b a
    omega

/-- Settles O29: the numbers of the keys compare as the exact values do, and keys of one length sort
by their numbers. -/
theorem floatKeysKeepTheOrder : Obligations.FloatKeysKeepTheOrder := by
  unfold Obligations.FloatKeysKeepTheOrder
  exact ⟨fun _ _ => orderKept_of_floatEncodeRule encF32_rule (by decide) (by decide) (by decide),
    fun _ _ => orderKept_of_floatEncodeRule encF64_rule (by decide) (by decide) (by decide)⟩

end Sys2Proof.Proofs

/-!
PROOFS. The validator seen from outside: a decode takes every key of its width, whatever its content
(43_validation R178, 20_memory R44), and an error names the command of its operation (43_validation
R181).
-/

namespace Sys2Proof.Proofs

open Sys2Proof.Machine

/-! ### Every key of the width decodes -/

/-- `i` answers the key `bs` by one result of its codec's kind, an INT or a float. -/
def DecodesInKind (i : Instr) (bs : List Byte) : Prop :=
  ∃ r, DecodesTo i bs r ∧
    (i.codec.kind ≠ .float → ∃ v, r = .int v) ∧
    (i.codec.kind = .float → (∃ b, r = .float32 b) ∨ ∃ b, r = .float64 b)

theorem decodesInKind_of_intDecodeRule {i : Instr} {cmd : Cmd} {w : Nat} {Value : Nat → Int → Prop}
    (hrule : IntDecodeRule i cmd w Value) (hkind : i.codec.kind ≠ .float) {bs : List Byte}
    (hlen : bs.length = w / 8) : DecodesInKind i bs := by
  obtain ⟨-, hkeys, -, -⟩ := hrule
  obtain ⟨v, -, hdec, -⟩ := hkeys bs hlen
  exact ⟨.int v, hdec, fun _ => ⟨v, rfl⟩, fun hfloat => absurd hfloat hkind⟩

theorem decodesInKind_of_floatDecodeRule {i : Instr} {cmd : Cmd} {w : Nat}
    {wrap : BitVec w → Result} (hrule : FloatDecodeRule i cmd w wrap) (hdvd : 8 ∣ w) (hw : 0 < w)
    (hkind : i.codec.kind = .float)
    (hwrap : ∀ x, (∃ b, wrap x = .float32 b) ∨ ∃ b, wrap x = .float64 b) {bs : List Byte}
    (hlen : bs.length = w / 8) (hnan : isNaN (fdec (BitVec.ofNat w (fromBE bs))) = false) :
    DecodesInKind i bs := by
  have hdec := decodesTo_of_floatDecodeRule hrule hdvd hw hnan
  rw [toBE_ofNat_fromBE hdvd hlen] at hdec
  exact ⟨_, hdec, fun hint => absurd hkind hint, fun _ => hwrap _⟩

/-- Settles O36, by the operation: the rule of an integer decode speaks of every key of W/8 bytes, the
rule of a float decode of every one whose pattern is no NaN. -/
theorem everyKeyOfTheWidthDecodes : Obligations.EveryKeyOfTheWidthDecodes := by
  unfold Obligations.EveryKeyOfTheWidthDecodes
  intro i hdir bs hlen hnan
  change DecodesInKind i bs
  cases i with
  | decS8 => exact decodesInKind_of_intDecodeRule decS8_rule (by decide) hlen
  | decS16 => exact decodesInKind_of_intDecodeRule decS16_rule (by decide) hlen
  | decS32 => exact decodesInKind_of_intDecodeRule decS32_rule (by decide) hlen
  | decS64 => exact decodesInKind_of_intDecodeRule decS64_rule (by decide) hlen
  | decU8 => exact decodesInKind_of_intDecodeRule decU8_rule (by decide) hlen
  | decU16 => exact decodesInKind_of_intDecodeRule decU16_rule (by decide) hlen
  | decU32 => exact decodesInKind_of_intDecodeRule decU32_rule (by decide) hlen
  | decU64 => exact decodesInKind_of_intDecodeRule decU64_rule (by decide) hlen
  | decF32 =>
    have hcount : bs.length = 4 := hlen
    refine decodesInKind_of_floatDecodeRule decF32_rule (by decide) (by decide) rfl
      (fun b => .inl ⟨b, rfl⟩) hlen ?_
    simpa [nanTransaction, hcount] using hnan
  | decF64 =>
    have hcount : bs.length = 8 := hlen
    refine decodesInKind_of_floatDecodeRule decF64_rule (by decide) (by decide) rfl
      (fun b => .inr ⟨b, rfl⟩) hlen ?_
    simpa [nanTransaction, hcount] using hnan
  | encS8 | encS16 | encS32 | encS64 | encU8 | encU16 | encU32 | encU64 | encF32 | encF64 =>
    exact absurd hdir (by decide)

/-! ### Every error names its command -/

/-- Every error that the outcome `o` leaves on the datapath names `cmd`. -/
def ErrorsName (cmd : Cmd) (o : Outcome) : Prop :=
  ∀ (t : State) (c : Cmd) (e : ErrorInfo PortInt),
    o = .next t → t.dp.rsp = some (.err c e) → c = cmd

section
variable {cmd : Cmd} {s : State}

/-- It is enough to look at the response that the outcome leaves. -/
theorem errorsName_of_rsp {t : State} {r : BlockResponse} (hrsp : t.dp.rsp = some r)
    (hr : ∀ c e, r = .err c e → c = cmd) : ErrorsName cmd (.next t) := by
  rintro _ c e ⟨rfl⟩ ht
  exact hr c e (Option.some.inj (hrsp.symm.trans ht))

/-- A result is no error. -/
theorem respond_errorsName (r : Result) : ErrorsName cmd (respond r s) :=
  errorsName_of_rsp rfl fun _ _ h => nomatch h

theorem raise_errorsName (e : ErrorInfo PortInt) : ErrorsName cmd (raise cmd e s) :=
  errorsName_of_rsp rfl fun _ _ h => by cases h; rfl

/-- An open response is a result, or a drawn error that names the command (42_float R145, R146). -/
theorem openResponse_errorsName {w : Nat} {policy : NanPolicy} {wrap : BitVec w → Result}
    {x : BitVec w} {d : NanDraw w} {c : Cmd} {e : ErrorInfo PortInt}
    (h : openResponse policy cmd wrap x d = .err c e) : c = cmd := by
  cases policy with
  | mechanical => cases h
  | draw =>
    cases d with
    | answer y => cases h
    | error e' => cases h; rfl

theorem respondOpen_errorsName {w : Nat} (wrap : BitVec w → Result) (x : BitVec w) :
    ErrorsName cmd (respondOpen cmd wrap x s) :=
  errorsName_of_rsp rfl fun _ _ h => openResponse_errorsName h

/-- A checked operation raises the validator's error under its command, and goes on as it does with a
checked value (43_validation R170). -/
theorem afterCheck_errorsName {α : Type} (checked : Except (ErrorInfo PortInt) α) {k : α → Outcome}
    (hk : ∀ a, ErrorsName cmd (k a)) : ErrorsName cmd (afterCheck cmd checked k s) := by
  cases checked with
  | error e => exact raise_errorsName e
  | ok a => exact hk a

theorem floatEncode_errorsName {w : Nat} (r : BitVec w) : ErrorsName cmd (floatEncode cmd r s) := by
  cases h : isNaN r with
  | false => exact floatEncode_number cmd s h ▸ respond_errorsName _
  | true => exact floatEncode_nan cmd s h ▸ respondOpen_errorsName _ _

theorem floatDecode_errorsName {w : Nat} (wrap : BitVec w → Result) (bs : List Byte) :
    ErrorsName cmd (floatDecode cmd wrap bs s) := by
  cases h : isNaN (fdec (BitVec.ofNat w (fromBE bs))) with
  | false => exact floatDecode_number cmd wrap s h ▸ respond_errorsName _
  | true => exact floatDecode_nan cmd wrap s h ▸ respondOpen_errorsName _ _

end

/-- Every operation is a check under its own word, followed by a result or an open response. -/
theorem exec_errorsName (i : Instr) (s : State) : ErrorsName (Sys2Proof.encode i) (exec i s) := by
  cases i with
  | encF32 | encF64 => exact afterCheck_errorsName _ fun r => floatEncode_errorsName r
  | decF32 | decF64 => exact afterCheck_errorsName _ fun bs => floatDecode_errorsName _ bs
  | encS8 | encS16 | encS32 | encS64 | encU8 | encU16 | encU32 | encU64
  | decS8 | decS16 | decS32 | decS64 | decU8 | decU16 | decU32 | decU64 =>
    exact afterCheck_errorsName _ fun _ => respond_errorsName _

/-- Settles O42. -/
theorem errorsNameTheirCommand : Obligations.ErrorsNameTheirCommand := by
  unfold Obligations.ErrorsNameTheirCommand
  exact fun i s => exec_errorsName i s

end Sys2Proof.Proofs

/-!
PROOFS. The errors that the operations raise (60_exceptions R201 to R204): the failed checks said once
as a relation, ERR_ILLEGAL before them, and the block that goes on after every one of them (R206, R214).
-/

namespace Sys2Proof.Proofs

open Sys2Proof.Machine

/-! ### The checks of an operand -/

/-- The check that the operand `op` of `i` fails, and what the error reports: a tag that is not the
required one (60_exceptions R201), or a value out of bounds or a count other than W/8 (R202). The last
two ask for the required tag, so no operand fails two checks (R204). -/
inductive CheckFails (i : Instr) (op : Operand) : ErrorInfo PortInt → Prop
  | tag (htag : op.tag ≠ requiredTag i) : CheckFails i op (.type (requiredTag i) op.tag)
  | value {v : PortInt} {lo hi : Int} (hint : requiredTag i = .int) (hop : op = .int v)
      (hbounds : (lo, hi) = codecBounds i.codec)
      (hout : ∀ n, v = .exact n → n < lo ∨ hi < n) : CheckFails i op (.rangeValue v lo hi)
  | length {len : Nat} {bs : List Byte} (hdecode : requiredTag i = .bytes)
      (hop : op = .bytes len bs) (hne : len ≠ i.codec.width.bytes) :
      CheckFails i op (.rangeLength i.codec.width.bytes len)

/-- The decodes are the operations that take bytes (30_encoding R67). -/
theorem requiredTag_eq_bytes_iff (i : Instr) : requiredTag i = .bytes ↔ i.codec.dir = .decode := by
  cases i <;> decide

section
variable {i : Instr} {op : Operand} {e : ErrorInfo PortInt}

/-- A wrong tag is the one check that fails, whatever the operand holds (60_exceptions R204). -/
theorem checkFails_iff_of_tag_ne (h : op.tag ≠ requiredTag i) :
    CheckFails i op e ↔ e = .type (requiredTag i) op.tag := by
  constructor
  · rintro (- | ⟨hint, rfl, -, -⟩ | ⟨hdecode, rfl, -⟩)
    · rfl
    · exact absurd hint.symm h
    · exact absurd hdecode.symm h
  · rintro rfl
    exact .tag h

/-- With the required tag only RangeKind is left (60_exceptions R204). -/
theorem range_of_checkFails (h : op.tag = requiredTag i) (hfails : CheckFails i op e) :
    (∃ v lo hi, e = .rangeValue v lo hi) ∨ ∃ x len, e = .rangeLength x len := by
  cases hfails with
  | tag htag => exact absurd h htag
  | value => exact .inl ⟨_, _, _, rfl⟩
  | length => exact .inr ⟨_, _, rfl⟩

/-- A check that finds a wrong tag first finds exactly the failed checks, if it does so on operands of
the required tag (43_validation R179). -/
theorem error_iff_of_tag {α : Type} {check : Except (ErrorInfo PortInt) α}
    (hwrong : op.tag ≠ requiredTag i → check = .error (.type (requiredTag i) op.tag))
    (hright : op.tag = requiredTag i → (check = .error e ↔ CheckFails i op e)) :
    check = .error e ↔ CheckFails i op e := by
  by_cases h : op.tag = requiredTag i
  · exact hright h
  · rw [hwrong h, checkFails_iff_of_tag_ne h, Except.error.injEq, eq_comm]

theorem eq_int_of_tag (h : op.tag = .int) : ∃ v, op = .int v := by
  cases op with
  | int v => exact ⟨v, rfl⟩
  | _ => cases h

theorem eq_bytes_of_tag (h : op.tag = .bytes) : ∃ len bs, op = .bytes len bs := by
  cases op with
  | bytes len bs => exact ⟨len, bs, rfl⟩
  | _ => cases h

/-- The validator of the integer encodes finds exactly the failed checks (43_validation R172, R174). -/
theorem validateEncInt_error_iff {lo hi : Int} (hint : requiredTag i = .int)
    (hbounds : codecBounds i.codec = (lo, hi)) :
    validateEncInt op lo hi = .error e ↔ CheckFails i op e := by
  refine error_iff_of_tag (hint ▸ validateEncInt_tag lo hi) fun htag => ⟨fun h => ?finds, ?fails⟩
  all_goals obtain ⟨v, rfl⟩ := eq_int_of_tag (htag.trans hint)
  case finds =>
    cases v with
    | beyond neg =>
      cases h
      exact .value hint rfl hbounds.symm fun _ hv => nomatch hv
    | exact n =>
      by_cases hn : n < lo ∨ hi < n
      · rw [validateEncInt_out hn] at h
        cases h
        exact .value hint rfl hbounds.symm fun _ hv => PortInt.exact.inj hv ▸ hn
      · rw [validateEncInt_in (by omega) (by omega)] at h
        cases h
  case fails =>
    rintro (hne | ⟨-, hop, hcodec, hout⟩ | ⟨hdecode, -, -⟩)
    · exact absurd htag hne
    · obtain rfl := Operand.int.inj hop
      obtain ⟨rfl, rfl⟩ := Prod.mk.inj (hcodec.trans hbounds)
      cases v with
      | beyond neg => rfl
      | exact n => exact validateEncInt_out (hout n rfl)
    · cases hint.symm.trans hdecode

/-- The validator of the decodes finds exactly the failed checks (43_validation R176, R177). -/
theorem validateDec_error_iff {w : Nat} (hdecode : requiredTag i = .bytes)
    (hw : i.codec.width.bytes = w / 8) : validateDec op w = .error e ↔ CheckFails i op e := by
  refine error_iff_of_tag (hdecode ▸ validateDec_tag w) fun htag => ⟨fun h => ?finds, ?fails⟩
  all_goals obtain ⟨len, bs, rfl⟩ := eq_bytes_of_tag (htag.trans hdecode)
  case finds =>
    by_cases hlen : len = w / 8
    · rw [hlen, validateDec_ok] at h
      cases h
    · rw [validateDec_length bs hlen, ← hw] at h
      cases h
      exact .length hdecode rfl (hw ▸ hlen)
  case fails =>
    rintro (hne | ⟨hint, -, -, -⟩ | ⟨-, hop, hne⟩)
    · exact absurd htag hne
    · cases hdecode.symm.trans hint
    · obtain ⟨rfl, rfl⟩ := Operand.bytes.inj hop
      rw [hw] at hne ⊢
      exact validateDec_length bs hne

/-- A check of the tag alone finds exactly the failed checks of an operation that takes neither
integers nor bytes. -/
theorem tagCheck_error_iff {α : Type} {check : Except (ErrorInfo PortInt) α}
    (hint : requiredTag i ≠ .int) (hbytes : requiredTag i ≠ .bytes)
    (hwrong : op.tag ≠ requiredTag i → check = .error (.type (requiredTag i) op.tag))
    (hok : op.tag = requiredTag i → ∃ a, check = .ok a) :
    check = .error e ↔ CheckFails i op e := by
  refine error_iff_of_tag hwrong fun htag => ⟨fun h => ?finds, ?fails⟩
  case finds =>
    obtain ⟨a, ha⟩ := hok htag
    cases ha.symm.trans h
  case fails =>
    rintro (hne | ⟨hint', -, -, -⟩ | ⟨hbytes', -, -⟩)
    · exact absurd htag hne
    · exact absurd hint' hint
    · exact absurd hbytes' hbytes

/-- The validator of ENC.F32 finds exactly the failed checks (43_validation R173, R175). -/
theorem validateEncFloat32_error_iff (hfloat : requiredTag i = .float32) :
    validateEncFloat32 op = .error e ↔ CheckFails i op e := by
  refine tagCheck_error_iff (by simp [hfloat]) (by simp [hfloat])
    (hfloat ▸ validateEncFloat32_tag) fun htag => ?_
  rw [hfloat] at htag
  cases op with
  | float32 b => exact ⟨b, rfl⟩
  | _ => cases htag

/-- The validator of ENC.F64 finds exactly the failed checks (43_validation R173, R175). -/
theorem validateEncFloat64_error_iff (hfloat : requiredTag i = .float64) :
    validateEncFloat64 op = .error e ↔ CheckFails i op e := by
  refine tagCheck_error_iff (by simp [hfloat]) (by simp [hfloat])
    (hfloat ▸ validateEncFloat64_tag) fun htag => ?_
  rw [hfloat] at htag
  cases op with
  | float64 b => exact ⟨b, rfl⟩
  | _ => cases htag

end

/-! ### The errors that an operation raises -/

/-- In `s` the operation `i` raises an error exactly for a failed check, under its own word. -/
def RaisesFailedChecks (i : Instr) (s : State) : Prop :=
  ∀ cmd e, exec i s = .next (s.answer (.err cmd e)) ↔
    cmd = Sys2Proof.encode i ∧ CheckFails i s.operand e

section
variable {i : Instr} {s : State}

/-- An operation that checks its operand, and answers a checked one with a result, raises exactly the
failed checks. -/
theorem raisesFailedChecks_of_body {α : Type} {check : Except (ErrorInfo PortInt) α}
    {k : α → Outcome} (hbody : exec i s = afterCheck (Sys2Proof.encode i) check k s)
    (hcheck : ∀ {e}, check = .error e ↔ CheckFails i s.operand e)
    (hk : ∀ a, check = .ok a → ∃ r, k a = .next (s.answer (.ok r))) : RaisesFailedChecks i s := by
  intro cmd e
  rw [hbody, ← hcheck]
  cases h : check with
  | error e' => simp [eq_comm]
  | ok a =>
    obtain ⟨r, hr⟩ := hk a h
    simp [hr]

/-- Outside the NaN cases every operation raises exactly the failed checks. -/
theorem exec_raisesFailedChecks (hnan : nanTransaction i s.operand = false) :
    RaisesFailedChecks i s := by
  cases i with
  | encS8 | encS16 | encS32 | encS64 | encU8 | encU16 | encU32 | encU64 =>
    exact raisesFailedChecks_of_body rfl (validateEncInt_error_iff rfl (by decide))
      fun _ _ => ⟨_, rfl⟩
  | decS8 | decS16 | decS32 | decS64 | decU8 | decU16 | decU32 | decU64 =>
    exact raisesFailedChecks_of_body rfl (validateDec_error_iff rfl rfl) fun _ _ => ⟨_, rfl⟩
  | encF32 =>
    refine raisesFailedChecks_of_body rfl (validateEncFloat32_error_iff rfl) fun b hb => ?_
    refine ⟨_, floatEncode_number _ s ?_⟩
    simpa [nanTransaction, eq_float32_of_validate hb] using hnan
  | encF64 =>
    refine raisesFailedChecks_of_body rfl (validateEncFloat64_error_iff rfl) fun b hb => ?_
    refine ⟨_, floatEncode_number _ s ?_⟩
    simpa [nanTransaction, eq_float64_of_validate hb] using hnan
  | decF32 =>
    refine raisesFailedChecks_of_body rfl (validateDec_error_iff rfl rfl) fun bs hbs => ?_
    refine ⟨_, floatDecode_number _ _ s ?_⟩
    simpa [nanTransaction, eq_bytes_of_validate hbs] using hnan
  | decF64 =>
    refine raisesFailedChecks_of_body rfl (validateDec_error_iff rfl rfl) fun bs hbs => ?_
    refine ⟨_, floatDecode_number _ _ s ?_⟩
    simpa [nanTransaction, eq_bytes_of_validate hbs] using hnan

end

/-- Settles O34: of the failed checks, TypeKind is the one of the tag. -/
theorem typeKindExactly : Obligations.TypeKindExactly := by
  unfold Obligations.TypeKindExactly
  intro i s hnan cmd x a
  rw [exec_raisesFailedChecks hnan cmd]
  constructor
  · rintro ⟨rfl, ⟨htag⟩⟩
    exact ⟨htag, rfl, rfl, rfl⟩
  · rintro ⟨htag, rfl, rfl, rfl⟩
    exact ⟨rfl, .tag htag⟩

/-- Settles O35: of the failed checks, RangeKind is the one of a value and the one of a count. -/
theorem rangeKindExactly : Obligations.RangeKindExactly := by
  unfold Obligations.RangeKindExactly
  intro i s hnan
  refine ⟨fun cmd v lo hi => ?value, fun cmd x a => ?length⟩
  case value =>
    rw [exec_raisesFailedChecks hnan cmd]
    constructor
    · rintro ⟨rfl, _ | ⟨hint, hop, hbounds, hout⟩⟩
      exact ⟨hint, hop, rfl, hbounds, hout⟩
    · rintro ⟨hint, hop, rfl, hbounds, hout⟩
      exact ⟨rfl, .value hint hop hbounds hout⟩
  case length =>
    rw [exec_raisesFailedChecks hnan cmd, ← requiredTag_eq_bytes_iff]
    constructor
    · rintro ⟨rfl, _ | _ | ⟨hdecode, hop, hne⟩⟩
      exact ⟨hdecode, ⟨_, hop⟩, rfl, rfl, hne⟩
    · rintro ⟨hdecode, ⟨bs, hop⟩, rfl, rfl, hne⟩
      exact ⟨rfl, .length hdecode hop hne⟩

/-- A NaN is an operand of the required tag. -/
theorem nanTransaction_of_tag_ne {i : Instr} {op : Operand} (h : op.tag ≠ requiredTag i) :
    nanTransaction i op = false := by
  unfold nanTransaction
  split
  case h_5 => rfl
  all_goals exact absurd rfl h

/-- A response to the required tag outside the NaN cases is OK or RANGE (60_exceptions R200, R204). -/
theorem status_of_tag_eq {i : Instr} {s : State} {r : BlockResponse}
    (htag : s.operand.tag = requiredTag i) (hnan : nanTransaction i s.operand = false)
    (hexec : exec i s = .next (s.answer r)) :
    responseStatus r = 0b00#2 ∨ responseStatus r = 0b10#2 := by
  cases r with
  | ok r => exact .inl rfl
  | err cmd e =>
    obtain ⟨-, hfails⟩ := (exec_raisesFailedChecks hnan cmd e).1 hexec
    obtain ⟨v, lo, hi, rfl⟩ | ⟨x, len, rfl⟩ := range_of_checkFails htag hfails
    · exact .inr rfl
    · exact .inr rfl

/-- Settles O33: an illegal word is raised before its operand is looked at, and of a legal word's
checks the one of the tag excludes the others. -/
theorem checksHaveOneOrder : Obligations.ChecksHaveOneOrder := by
  unfold Obligations.ChecksHaveOneOrder
  intro s
  refine ⟨fun g hg => serve_illegal hg, fun i hi htag => ?wrongTag, fun i hi htag hnan => ?rightTag⟩
  case wrongTag =>
    rw [serve_legal hi, exec_raisesFailedChecks (nanTransaction_of_tag_ne htag)]
    exact ⟨eq_encode_of_decode hi, .tag htag⟩
  case rightTag =>
    obtain ⟨r, hr⟩ := exec_alike hnan
    have hexec : exec i s = .next (s.answer r) := hr s rfl
    exact ⟨r, by rw [serve_legal hi, hexec], status_of_tag_eq htag hnan hexec⟩

/-! ### The block goes on -/

/-- A cycle of channel `k` leaves every other channel as it was (60_exceptions R214). -/
theorem cycleOf_step_other {s t : State} {k j : Nat} {c : Channel} {inp : ChanIn}
    (h : CycleOf s k c inp) (hstep : step s = .next t) (hj : j ≠ k) :
    t.channels[j]? = s.channels[j]? := by
  obtain ⟨c', joined, n, -, -, hnext⟩ := cycleOf_next h
  obtain rfl := Host.Outcome.next.inj (hstep.symm.trans hnext)
  exact List.getElem?_set_ne hj.symm

/-- Settles O48: the step is no reset cycle, so it is a cycle of the channel that the script or the turn
names. -/
theorem channelsDoNotTouchEachOther : Obligations.ChannelsDoNotTouchEachOther := by
  unfold Obligations.ChannelsDoNotTouchEachOther
  intro s t j hstep hother
  rcases reset_or_cycleOf hstep with ⟨driven, rest, hreset, -⟩ | ⟨k, c, inp, hcycle⟩
  · simp [hreset] at hother
  · refine cycleOf_step_other hcycle hstep ?_
    obtain ⟨-, -, ⟨rest, hs⟩ | ⟨hs, rfl, -⟩⟩ := hcycle
    · obtain ⟨k', inp', rest', hs', hj⟩ | ⟨hs', -⟩ := hother
      · obtain ⟨⟨rfl, -⟩, -⟩ : (k = k' ∧ inp = inp') ∧ rest = rest' := by simpa [hs] using hs'
        exact hj
      · cases hs.symm.trans hs'
    · obtain ⟨k', inp', rest', hs', -⟩ | ⟨-, hj⟩ := hother
      · cases hs.symm.trans hs'
      · exact hj

/-- A cycle of a channel goes on, and the block stays live. -/
theorem cycleOf_step_live {s : State} {k : Nat} {c : Channel} {inp : ChanIn}
    (h : CycleOf s k c inp) : ∃ t, step s = .next t ∧ t.live = true := by
  obtain ⟨t, -, -, -, hstep, -, -, -, hlive, -⟩ := cycleOf_channel h
  obtain ⟨hl, -⟩ := h
  exact ⟨t, hstep, hlive.trans hl⟩

/-- Settles O57, by the script: a reset cycle, a cycle of a channel that the build has, or the turn's
cycle, which is a channel's by the invariant. -/
theorem theBlockNeverStops : Obligations.TheBlockNeverStops := by
  unfold Obligations.TheBlockNeverStops
  intro s hinv hl hchannels
  match hs : s.script with
  | .reset driven :: rest =>
    exact ⟨({ s with script := rest }).resetCycle driven, by simp [step, nextEvent, hs], rfl⟩
  | .cycle k inp :: rest =>
    have hc := List.getElem?_eq_getElem (hchannels k inp rest hs)
    exact cycleOf_step_live ⟨hl, hc, .inl ⟨rest, hs⟩⟩
  | [] =>
    have hc := List.getElem?_eq_getElem hinv.turnInRange
    exact cycleOf_step_live ⟨hl, hc, .inr ⟨hs, rfl, rfl⟩⟩

/-- Settles O46: the cycle accepts the request, and serving its word raises ERR_ILLEGAL. -/
theorem stepAnswersAnIllegalWord : Obligations.StepAnswersAnIllegalWord := by
  unfold Obligations.StepAnswersAnIllegalWord
  intro s k inp rest c g hl hs hc hv hr hg
  have hacc : (c.drive inp).accepting = true := by simp [hv, hr]
  have hserve : serve (({ s with script := rest }).route inp.req) =
      .next ((({ s with script := rest }).route inp.req).answer (.err inp.req.cmd .illegal)) :=
    serve_illegal hg
  refine ⟨?_, rfl, rfl⟩
  rw [scripted_step hl hs hc, runChannel, if_pos hacc, Channel.drive_inp, hserve, onNext_next]

end Sys2Proof.Proofs

/-!
PROOFS. Reset cycles and the cycles before the first one (70_reset R230, R233, R234), a response
that is held until it is taken (R237), and the end of every run of the program host (R238, R239).
-/

namespace Sys2Proof.Proofs

open Sys2Proof.Machine

/-! ### Reset cycles -/

/-- Settles O51: the step is the reset cycle of the block, which leaves every channel reset. -/
theorem resetCycleDiscardsEverything : Obligations.ResetCycleDiscardsEverything := by
  unfold Obligations.ResetCycleDiscardsEverything
  intro s driven rest hs
  exact ⟨({ s with script := rest }).resetCycle driven, by simp [step, nextEvent, hs], rfl, rfl,
    State.resetCycle_length _ _, forall_mem_resetCycle fun _ _ => ⟨rfl, rfl, rfl, rfl, rfl⟩⟩

/-- Settles O54, by the script: what is not a reset cycle asks for a live block. -/
theorem noStepBeforeTheFirstReset : Obligations.NoStepBeforeTheFirstReset := by
  unfold Obligations.NoStepBeforeTheFirstReset
  intro s hl hnoReset
  match hs : s.script with
  | .reset driven :: rest => exact absurd hs (hnoReset driven rest)
  | .cycle k inp :: rest => simp [step, nextEvent, hs, hl]
  | [] => simp [step, nextEvent, hs, hl]

/-! ### A response that is not taken -/

/-- A step that goes on from a scripted cycle is a cycle of that channel. -/
theorem cycleOf_of_script {s t : State} {k : Nat} {inp : ChanIn} {rest : List HostEvent}
    (hs : s.script = .cycle k inp :: rest) (hstep : step s = .next t) :
    ∃ c, s.channels[k]? = some c ∧ CycleOf s k c inp := by
  rcases step_cases hstep with
    ⟨_, _, hs', -⟩ | ⟨k', inp', rest', c, hl, hs', hc, -⟩ | ⟨_, _, hs', -⟩
  · cases hs.symm.trans hs'
  · obtain ⟨⟨rfl, rfl⟩, -⟩ : (k = k' ∧ inp = inp') ∧ rest = rest' := by simpa [hs] using hs'
    exact ⟨c, hc, hl, hc, .inl ⟨rest, hs⟩⟩
  · cases hs.symm.trans hs'

/-- The oldest entry of `c` waits no more, and `p` are the ports of its response. -/
def Due (c : Channel) (p : RspPorts) : Prop :=
  ∃ e rest, c.inflight = e :: rest ∧ e.wait = 0 ∧ responsePorts e.rsp = p

/-- A response presented and not taken is due in the channel's next cycle. -/
theorem due_of_untaken {s t : State} {k : Nat} {c d : Channel} {inp : ChanIn}
    (h : CycleOf s k c inp) (hstep : step s = .next t) (hd : t.channels[k]? = some d)
    (hvalid : d.rspValid = true) (huntaken : inp.rspReady = false) : Due d d.rsp := by
  obtain ⟨t', d', joined, hstep', hd', -, -, hserved⟩ := aCycleServesTheOldestEntry s k c inp h
  obtain rfl := Host.Outcome.next.inj (hstep.symm.trans hstep')
  obtain rfl := Option.some.inj (hd.symm.trans hd')
  split at hserved
  case h_1 =>
    obtain ⟨hinvalid, -, -⟩ := hserved
    cases hvalid.symm.trans hinvalid
  case h_2 e rest _ =>
    obtain ⟨hpresented, hports, -, hheld⟩ := hserved
    obtain ⟨-, hlist⟩ := hheld (.inr huntaken)
    have hwait : e.wait = 0 := by simpa [hvalid] using hpresented
    exact ⟨e.tick, rest.map InFlight.tick, hlist, by simp [hwait], (hports hvalid).symm⟩

/-- A cycle presents the response that is due, whatever joins the list behind it. -/
theorem presented_of_due {s t : State} {k : Nat} {c : Channel} {inp : ChanIn} {p : RspPorts}
    (h : CycleOf s k c inp) (hstep : step s = .next t) (hdue : Due c p) :
    ∃ d, t.channels[k]? = some d ∧ d.rspValid = true ∧ d.rsp = p := by
  obtain ⟨e, rest, hlist, hwait, rfl⟩ := hdue
  obtain ⟨t', d, joined, hstep', hd, -, -, hserved⟩ := aCycleServesTheOldestEntry s k c inp h
  obtain rfl := Host.Outcome.next.inj (hstep.symm.trans hstep')
  rw [hlist, List.cons_append] at hserved
  obtain ⟨hpresented, hports, -, -⟩ := hserved
  have hvalid : d.rspValid = true := by simpa [hwait] using hpresented
  exact ⟨d, hd, hvalid, hports hvalid⟩

/-- Settles O50: after the first cycle the response is due, and the second one presents it. -/
theorem untakenResponseIsHeld : Obligations.UntakenResponseIsHeld := by
  unfold Obligations.UntakenResponseIsHeld
  intro s t u k a b rest c hs hst htu hc hvalid huntaken
  obtain ⟨c₀, -, hfirst⟩ := cycleOf_of_script hs hst
  have hdue : Due c c.rsp := due_of_untaken hfirst hst hc hvalid huntaken
  obtain ⟨t', -, -, -, hst', -, -, -, -, hscript⟩ := cycleOf_channel hfirst
  obtain rfl := Host.Outcome.next.inj (hst.symm.trans hst')
  obtain ⟨c', hc', hsecond⟩ := cycleOf_of_script (hscript.trans (congrArg List.tail hs)) htu
  obtain rfl := Option.some.inj (hc.symm.trans hc')
  exact presented_of_due hsecond htu hdue

/-! ### A cycle of the program host -/

/-- The channel as the program host drives it. -/
def hosted (c : Channel) : Channel :=
  if (c.drive c.programIn).accepting then (c.drive c.programIn).advanceProgram
  else c.drive c.programIn

theorem driven_hosted (c : Channel) : Driven c c.programIn (hosted c) := driven_program c

/-- With a request left to present, the program host presents it. -/
theorem programIn_cons {c : Channel} {p : ReqPorts} {ps : List ReqPorts}
    (h : c.program = p :: ps) :
    c.programIn = { reqValid := true, req := p, rspReady := true } := by
  simp [Channel.programIn, h]

/-- The program host always takes the response (60_exceptions R217). -/
@[simp] theorem programIn_rspReady (c : Channel) : c.programIn.rspReady = true := by
  unfold Channel.programIn
  split <;> rfl

/-- With an empty script the step is the program host's cycle of the channel in turn. -/
theorem program_step {s : State} {c : Channel} (hl : s.live = true) (hs : s.script = [])
    (hc : s.channels[s.turn]? = some c) :
    step s = runChannel s.turn (hosted c) { s with turn := nextTurn s } := by
  simp [step, nextEvent, hs, hl, programCycle, hc, hosted]

/-- A request that is accepted leaves the program. -/
theorem hosted_of_accepting {c : Channel} {p : ReqPorts} {ps : List ReqPorts}
    (h : c.program = p :: ps) (hr : c.canAccept = true) :
    hosted c = { c.drive { reqValid := true, req := p, rspReady := true } with program := ps } := by
  simp [hosted, programIn_cons h, hr, Channel.advanceProgram, h]

/-- Settles O45: the program host's cycle accepts the request, whose word decodes to `i`. -/
theorem programStepRunsTheDecodedInstruction :
    Obligations.ProgramStepRunsTheDecodedInstruction := by
  unfold Obligations.ProgramStepRunsTheDecodedInstruction
  intro s p ps c i hl hs hc hp hr hi _
  have hserve : serve (({ s with turn := nextTurn s }).route p) =
      exec i (({ s with turn := nextTurn s }).route p) := serve_legal hi
  have hacc : Channel.accepting
      { c.drive { reqValid := true, req := p, rspReady := true } with program := ps } = true := by
    simp [Channel.accepting, hr]
  rw [program_step hl hs hc, hosted_of_accepting hp hr, runChannel, if_pos hacc, Channel.drive_inp,
    hserve]

/-! ### The work left on a channel -/

/-- A bound on the cycles in which a host that takes every response has the list delivered. -/
def pending (l : List InFlight) : Nat := (l.map fun e => e.wait + 1).sum

@[simp] theorem pending_nil : pending [] = 0 := rfl
@[simp] theorem pending_cons (e : InFlight) (l : List InFlight) :
    pending (e :: l) = e.wait + 1 + pending l := by simp [pending]
@[simp] theorem pending_append (l l' : List InFlight) :
    pending (l ++ l') = pending l + pending l' := by simp [pending]

/-- A cycle older, a list has no more cycles to wait. -/
theorem pending_tick_le (l : List InFlight) : pending (l.map InFlight.tick) ≤ pending l := by
  induction l with
  | nil => simp
  | cons e rest ih =>
    simp only [List.map_cons, pending_cons, InFlight.tick_wait]
    omega

theorem eq_nil_of_pending_eq_zero {l : List InFlight} (h : pending l = 0) : l = [] := by
  cases l with
  | nil => rfl
  | cons e rest =>
    rw [pending_cons] at h
    omega

/-- A cycle whose response the host takes comes nearer to the empty list: the oldest entry waits
less or is delivered. -/
theorem pending_finish_le {c : Channel} (n : Nat) (hready : c.inp.rspReady = true) :
    pending (c.finish n).inflight ≤ pending c.inflight - 1 := by
  cases hlist : c.inflight with
  | nil =>
    obtain ⟨-, -, hempty⟩ := finish_nil n hlist
    simp [hempty]
  | cons e rest =>
    have hrest := pending_tick_le rest
    obtain ⟨hpresented, -, htaken, hheld⟩ := finish_cons n hlist
    cases hwait : e.wait with
    | zero =>
      obtain ⟨-, hfinish⟩ := htaken (by rw [hpresented, hwait]; rfl) hready
      rw [hfinish, pending_cons]
      omega
    | succ w =>
      obtain ⟨-, hfinish⟩ := hheld (.inl (by rw [hpresented, hwait]; rfl))
      rw [hfinish, List.map_cons, pending_cons, pending_cons, InFlight.tick_wait]
      omega

/-- The cycles left of the delay after reset (10_state R35). -/
def delay (c : Channel) : Nat := c.startup + c.fresh.toNat

theorem delay_finish (c : Channel) (n : Nat) : delay (c.finish n) = delay c - 1 := by
  cases h : c.fresh <;> simp [delay, h]

/-- A bound on the cycles in which the program host ends the channel's run: a request still to
present takes one to be accepted and LATENCY + 1 in the list. -/
def work (c : Channel) : Nat :=
  (Config.latency + 2) * c.program.length + pending c.inflight + delay c

/-- A channel without work left has ended its run. -/
theorem ended_of_work_eq_zero {c : Channel} (h : work c = 0) :
    c.program = [] ∧ c.inflight = [] := by
  simp only [work, Nat.add_eq_zero_iff, Nat.mul_eq_zero, reduceCtorEq, and_false, false_or,
    List.length_eq_zero_iff] at h
  obtain ⟨⟨hprogram, hpending⟩, -⟩ := h
  exact ⟨hprogram, eq_nil_of_pending_eq_zero hpending⟩

/-- `d` is `c` after cycles of the program host: the requests accepted and those left to present are
the same in all. -/
def Carries (c d : Channel) : Prop := d.accepted ++ d.program = c.accepted ++ c.program

section
variable {s : State} {c : Channel} {joined : List InFlight}

/-- A cycle of the program host that accepts moves one request from the program to the list. -/
theorem hosted_accepts (hacc : (c.programIn.reqValid && c.canAccept) = true)
    (hj : Joins s c c.programIn joined) :
    ∃ p ps r, c.program = p :: ps ∧ (hosted c).program = ps ∧
      joined = [{ req := p, rsp := r, wait := Config.latency }] := by
  rw [Joins, if_pos hacc] at hj
  obtain ⟨-, r, -, -, rfl⟩ := hj
  obtain ⟨hvalid, hready⟩ := Bool.and_eq_true_iff.1 hacc
  cases hp : c.program with
  | nil => simp [Channel.programIn, hp, ChanIn.zero] at hvalid
  | cons p ps =>
    exact ⟨p, ps, r, rfl, by rw [hosted_of_accepting hp hready], by rw [programIn_cons hp]⟩

/-- A cycle of the program host keeps the requests in order, whether it accepts one or not. -/
theorem hosted_carries (n : Nat) (hj : Joins s c c.programIn joined) :
    Carries c ((enter (hosted c) joined).finish n) := by
  have hd := driven_hosted c
  rw [Carries, Channel.finish_accepted, Channel.finish_program, enter_accepted, enter_program,
    hd.accepted_eq]
  cases hacc : c.programIn.reqValid && c.canAccept with
  | true =>
    obtain ⟨p, ps, r, hp, hps, rfl⟩ := hosted_accepts hacc hj
    simp [hp, hps]
  | false =>
    rw [joins_nil hacc hj, hd.program_eq hacc, List.map_nil, List.append_nil]

/-- A channel with nothing else to do accepts, so that the program host's next request is none. -/
theorem program_eq_nil_of_idle (hacc : (c.programIn.reqValid && c.canAccept) = false)
    (hempty : pending c.inflight = 0) (hdelay : delay c = 0) : c.program = [] := by
  obtain ⟨hstartup, hfresh⟩ := Nat.add_eq_zero_iff.1 hdelay
  have hready : c.canAccept = true := by
    rw [canAccept_eq_decide, decide_eq_true_eq]
    exact ⟨by simpa using hfresh, hstartup, by
      rw [eq_nil_of_pending_eq_zero hempty]; exact fifoDepth_pos⟩
  cases hp : c.program with
  | nil => rfl
  | cons p ps => simp [programIn_cons hp, hready] at hacc

/-- Every cycle of the program host takes from the work left on its channel. -/
theorem hosted_work_le (n : Nat) (hj : Joins s c c.programIn joined) :
    work ((enter (hosted c) joined).finish n) ≤ work c - 1 := by
  have hd := driven_hosted c
  have hpending := pending_finish_le (c := enter (hosted c) joined) n
    (by rw [enter_inp, hd.inp_eq, programIn_rspReady])
  have hdelay : delay ((enter (hosted c) joined).finish n) = delay c - 1 := by
    rw [delay_finish, delay, delay, enter_startup, enter_fresh, hd.startup_eq, hd.fresh_eq]
  rw [enter_inflight, hd.inflight_eq, pending_append] at hpending
  rw [work, work, hdelay, Channel.finish_program, enter_program]
  cases hacc : c.programIn.reqValid && c.canAccept with
  | true =>
    obtain ⟨p, ps, r, hp, hps, rfl⟩ := hosted_accepts hacc hj
    rw [pending_cons, pending_nil] at hpending
    rw [hps, hp, List.length_cons, Nat.mul_succ]
    dsimp only at hpending
    omega
  | false =>
    rw [joins_nil hacc hj, pending_nil] at hpending
    have hidle := program_eq_nil_of_idle hacc
    rw [joins_nil hacc hj, hd.program_eq hacc]
    by_cases hrest : pending c.inflight = 0 ∧ delay c = 0
    · obtain ⟨hempty, hover⟩ := hrest
      rw [hidle hempty hover, List.length_nil]
      omega
    · omega

end

/-! ### The end of a run -/

/-- The state is one in which the program host drives the channels. -/
structure Hosted (s : State) : Prop where
  inv : StateInv s
  live : s.live = true
  script : s.script = []

/-- `t` is `s` after a step of the program host, seen from every channel: none gains work, the one
in turn loses some, and each keeps its requests in order. -/
structure TurnTaken (s t : State) : Prop where
  length_eq : t.channels.length = s.channels.length
  turn_eq : t.turn = nextTurn s
  channel : ∀ (k : Nat) (c : Channel), s.channels[k]? = some c →
    ∃ d, t.channels[k]? = some d ∧ Carries c d ∧ work d ≤ work c ∧
      (k = s.turn → work d ≤ work c - 1)

/-- The program host's step runs the channel in turn and leaves the others as they were. -/
theorem hosted_step {s : State} (h : Hosted s) :
    ∃ t, step s = .next t ∧ Hosted t ∧ TurnTaken s t := by
  obtain ⟨hinv, hl, hs⟩ := h
  have hrange := hinv.turnInRange
  have hturn := List.getElem?_eq_getElem hrange
  obtain ⟨joined, n, hj, hrun⟩ := runChannel_joins { s with turn := nextTurn s } s.turn
    (driven_hosted s.channels[s.turn])
  have hstep := (program_step hl hs hturn).trans hrun
  refine ⟨_, hstep, ⟨everyStepKeepsTheInvariant s _ hinv hstep, hl, hs⟩,
    List.length_set, rfl, fun k c hc => ?_⟩
  by_cases hk : k = s.turn
  · subst hk
    obtain rfl := Option.some.inj (hturn.symm.trans hc)
    have hwork := hosted_work_le n hj
    exact ⟨_, List.getElem?_set_self hrange, hosted_carries n hj,
      hwork.trans (Nat.sub_le _ _), fun _ => hwork⟩
  · exact ⟨c, (List.getElem?_set_ne (Ne.symm hk)).trans hc, rfl, le_rfl, fun h => absurd h hk⟩

/-- Every channel's work is done within `N` steps: a channel whose turn comes in `i` steps, and that
has `w` cycles to go, has the last of them `(w - 1)` rounds after that turn. -/
def DoneWithin (N : Nat) (s : State) : Prop :=
  ∀ (k : Nat) (c : Channel), s.channels[k]? = some c → work c = 0 ∨
    ∃ i, (s.turn + i) % s.channels.length = k ∧ i + (work c - 1) * s.channels.length < N

/-- Some number of steps is enough for all channels. -/
theorem exists_doneWithin (s : State) (h : s.turn < s.channels.length) : ∃ N, DoneWithin N s := by
  refine ⟨2 * s.channels.length + (s.channels.map work).sum * s.channels.length,
    fun k c hc => ?_⟩
  obtain ⟨hk, -⟩ := List.getElem?_eq_some_iff.1 hc
  refine .inr ⟨k + s.channels.length - s.turn, ?_, ?_⟩
  · rw [show s.turn + (k + s.channels.length - s.turn) = k + s.channels.length by omega,
      Nat.add_mod_right, Nat.mod_eq_of_lt hk]
  · have hwork : work c ≤ (s.channels.map work).sum :=
      List.le_sum_of_mem (List.mem_map_of_mem (List.mem_of_getElem? hc))
    have hrounds := Nat.mul_le_mul_right s.channels.length ((Nat.sub_le _ 1).trans hwork)
    omega

/-- A channel's last cycle is one step nearer after a step: its turn is nearer, or it has just had a
cycle and the next turn comes a round later with one cycle less to go. -/
theorem doneWithin_step {s t : State} {N : Nat} (h : DoneWithin (N + 1) s)
    (hrange : s.turn < s.channels.length) (hstep : TurnTaken s t) : DoneWithin N t := by
  intro k d hd
  obtain ⟨hlength, hturn, hchannel⟩ := hstep
  have hk : k < s.channels.length := hlength ▸ (List.getElem?_eq_some_iff.1 hd).1
  obtain ⟨d', hd', -, hle, hlt⟩ := hchannel k _ (List.getElem?_eq_getElem hk)
  obtain rfl := Option.some.inj (hd.symm.trans hd')
  have hnext (i : Nat) :
      (t.turn + i) % t.channels.length = (s.turn + (i + 1)) % s.channels.length := by
    rw [hlength, hturn, nextTurn, Nat.mod_add_mod, Nat.add_assoc, Nat.add_comm 1]
  rcases h k _ (List.getElem?_eq_getElem hk) with hdone | ⟨i, hi, hbound⟩
  · exact .inl (Nat.le_zero.1 (hdone ▸ hle))
  cases i with
  | zero =>
    have hwork := hlt (by rw [← hi, Nat.add_zero, Nat.mod_eq_of_lt hrange])
    cases hw : work d with
    | zero => exact .inl rfl
    | succ w =>
      have hround : (w + 1) * s.channels.length ≤ (work s.channels[k] - 1) * s.channels.length :=
        Nat.mul_le_mul_right _ (hw ▸ hwork)
      rw [Nat.succ_mul] at hround
      refine .inr ⟨s.channels.length - 1, ?_, ?_⟩
      · rw [hnext, Nat.sub_add_cancel (Nat.zero_lt_of_lt hk), Nat.add_mod_right,
          Nat.mod_eq_of_lt hrange, ← hi, Nat.add_zero, Nat.mod_eq_of_lt hrange]
      · rw [hlength, Nat.add_sub_cancel]
        omega
  | succ i =>
    have hround := Nat.mul_le_mul_right s.channels.length (Nat.sub_le_sub_right hle 1)
    exact .inr ⟨i, (hnext i).trans hi, by rw [hlength]; omega⟩

/-- Within the steps that are enough, the work on every channel is done and its requests are kept in
order. -/
theorem run_doneWithin (N : Nat) {s : State} (h : Hosted s) (hdone : DoneWithin N s) :
    ∃ t, Host.Core.run Sys2Proof.core N s = .next t ∧ Hosted t ∧ DoneWithin 0 t ∧
      ∀ (k : Nat) (c : Channel), s.channels[k]? = some c →
        ∃ d, t.channels[k]? = some d ∧ Carries c d := by
  induction N generalizing s with
  | zero => exact ⟨s, rfl, h, hdone, fun k c hc => ⟨c, hc, rfl⟩⟩
  | succ N ih =>
    obtain ⟨t, hstep, ht, htaken⟩ := hosted_step h
    obtain ⟨u, hrun, hu, hdone', hcarries⟩ :=
      ih ht (doneWithin_step hdone h.inv.turnInRange htaken)
    refine ⟨u, (run_succ N hstep).trans hrun, hu, hdone', fun k c hc => ?_⟩
    obtain ⟨d, hd, hcd, -, -⟩ := htaken.channel k c hc
    obtain ⟨e, he, hde⟩ := hcarries k d hd
    exact ⟨e, he, hde.trans hcd⟩

/-- With no step left every channel has ended its run. -/
theorem ended_of_doneWithin_zero {s : State} (h : DoneWithin 0 s) {k : Nat} {c : Channel}
    (hc : s.channels[k]? = some c) : c.program = [] ∧ c.inflight = [] := by
  rcases h k c hc with hwork | ⟨_, -, hnone⟩
  · exact ended_of_work_eq_zero hwork
  · exact absurd hnone (Nat.not_lt_zero _)

/-- Where every channel has ended its run and the script is empty, the run has ended. -/
theorem runEnded_of_doneWithin_zero {s : State} (hs : s.script = []) (h : DoneWithin 0 s) :
    runEnded s = true := by
  rw [runEnded, hs, List.isEmpty_nil, Bool.true_and, List.all_eq_true]
  intro c hmem
  obtain ⟨k, hc⟩ := List.getElem?_of_mem hmem
  obtain ⟨hprogram, hinflight⟩ := ended_of_doneWithin_zero h hc
  rw [hprogram, hinflight]
  rfl

/-- Settles O58, by induction on the steps that are enough for all channels: at the end the programs
and the lists are empty, so that by the invariant every request accepted has been delivered. -/
theorem everyRunEndsFullyAnswered : Obligations.EveryRunEndsFullyAnswered := by
  unfold Obligations.EveryRunEndsFullyAnswered
  intro s hinv hl hs
  obtain ⟨N, hN⟩ := exists_doneWithin s hinv.turnInRange
  obtain ⟨t, hrun, ht, hdone, hcarries⟩ := run_doneWithin N ⟨hinv, hl, hs⟩ hN
  refine ⟨t, ⟨N, hrun⟩, runEnded_of_doneWithin_zero ht.script hdone, ht.inv, fun k c hc => ?_⟩
  obtain ⟨d, hd, hcd⟩ := hcarries k c hc
  obtain ⟨hprogram, hinflight⟩ := ended_of_doneWithin_zero hdone hd
  have horder := (ht.inv.channelsRight d (List.mem_of_getElem? hd)).inOrder
  rw [Carries, hprogram, List.append_nil] at hcd
  rw [hinflight, List.map_nil, List.append_nil] at horder
  exact ⟨d, hd, hcd, horder.symm⟩

end Sys2Proof.Proofs

/-!
PROOFS. The map of the command words: the round trip of the operations, words put together from their
fields, and the three groups of illegal words (30_encoding R60 to R64).
-/

namespace Sys2Proof.Proofs

/-! ### Words and operations -/

/-- An operation is the one of its own codec (30_encoding R63). -/
@[simp] theorem instrOfCodec_codec (i : Instr) : instrOfCodec i.codec = some i := by
  cases i <;> rfl

/-- Every operation has a codec that exists (00_scope R9). -/
@[simp] theorem instr_wf (i : Instr) : i.wf = true :=
  (exists_instrOfCodec_iff i.codec).mp ⟨i, instrOfCodec_codec i⟩

/-- Settles O1. -/
theorem commandWordsRoundTrip : Obligations.CommandWordsRoundTrip :=
  fun i => ⟨instr_wf i, decode_encode i⟩

/-- Settles O2. -/
theorem decodeGivesOnlyTheOwnWord : Obligations.DecodeGivesOnlyTheOwnWord :=
  fun _ _ => eq_encode_of_decode

/-! ### Words from their fields -/

/-- The fields of a word are those that it was put together from (30_encoding R60). -/
@[simp] theorem splitCmd_append (rsvd : BitVec 3) (wcode kind : BitVec 2) (dir : BitVec 1) :
    splitCmd (rsvd ++ wcode ++ kind ++ dir) = ⟨rsvd, wcode, kind, dir⟩ := by
  revert rsvd wcode kind dir; decide

/-- A word whose RSVD is 000 decodes to the operation of the codec that its other fields name
(30_encoding R60, R62). -/
theorem decode_append {wcode kind : BitVec 2} {dir : BitVec 1} {k : Kind} {i : Instr}
    (hkind : kindOfCode kind = some k)
    (hinstr : instrOfCodec ⟨dirOfCode dir, k, widthOfCode wcode⟩ = some i) :
    Sys2Proof.decode (0b000#3 ++ wcode ++ kind ++ dir) = .ok i := by
  rw [decode_eq_ok_iff, splitCmd_append]
  exact ⟨rfl, k, hkind, hinstr⟩

/-- Settles O3: the codes in each word name the codec of its operation. -/
theorem sampleWordsDecode : Obligations.SampleWordsDecode :=
  ⟨decode_append rfl rfl, decode_append rfl rfl, decode_append rfl rfl,
    decode_append rfl rfl, decode_append rfl rfl, decode_append rfl rfl⟩

/-! ### The groups of illegal words -/

/-- What the decoder answers, by its tests in their order (30_encoding R62, R64). -/
theorem decode_cases (c : Cmd) :
    ((splitCmd c).rsvd ≠ 0b000#3 ∧ Sys2Proof.decode c = .error .reservedBits) ∨
    ((splitCmd c).rsvd = 0b000#3 ∧ kindOfCode (splitCmd c).kind = none ∧
      Sys2Proof.decode c = .error .reservedKind) ∨
    ((splitCmd c).rsvd = 0b000#3 ∧ ∃ k, kindOfCode (splitCmd c).kind = some k ∧
      (instrOfCodec ⟨dirOfCode (splitCmd c).dir, k, widthOfCode (splitCmd c).wcode⟩ = none ∧
          Sys2Proof.decode c = .error .noSuchFloatWidth ∨
        ∃ i, instrOfCodec ⟨dirOfCode (splitCmd c).dir, k, widthOfCode (splitCmd c).wcode⟩ =
            some i ∧
          Sys2Proof.decode c = .ok i)) := by
  by_cases hrsvd : (splitCmd c).rsvd = 0b000#3
  · cases hkind : kindOfCode (splitCmd c).kind with
    | none => simp [Sys2Proof.decode, hrsvd, hkind]
    | some k =>
      cases hinstr : instrOfCodec
        ⟨dirOfCode (splitCmd c).dir, k, widthOfCode (splitCmd c).wcode⟩ <;>
        simp [Sys2Proof.decode, hrsvd, hkind, hinstr]
  · simp [Sys2Proof.decode, hrsvd]

/-- Only the code 11 names no kind (30_encoding R60). -/
theorem kindOfCode_eq_none_iff (kind : BitVec 2) : kindOfCode kind = none ↔ kind = 0b11#2 := by
  revert kind; decide

/-- Only the floats of 8 and 16 bits have no operation (00_scope R9; 30_encoding R63). -/
theorem instrOfCodec_eq_none_iff (c : Codec) :
    instrOfCodec c = none ↔ c.kind = .float ∧ (c.width = .w8 ∨ c.width = .w16) := by
  obtain ⟨dir, kind, width⟩ := c
  cases dir <;> cases kind <;> cases width <;> simp [instrOfCodec]

/-- The fields of the four float words of 8 and 16 bits (30_encoding R64). -/
theorem mem_floatWidthWords_iff (c : Cmd) : c ∈ [0x04#8, 0x05#8, 0x0C#8, 0x0D#8] ↔
    (splitCmd c).rsvd = 0b000#3 ∧ kindOfCode (splitCmd c).kind = some .float ∧
      (widthOfCode (splitCmd c).wcode = .w8 ∨ widthOfCode (splitCmd c).wcode = .w16) := by
  revert c; decide

/-- RSVD is not 000 exactly from 0x20 on (30_encoding R60, R64). -/
theorem rsvd_ne_zero_iff (c : Cmd) : (splitCmd c).rsvd ≠ 0b000#3 ↔ 0x20 ≤ c.toNat := by
  revert c; decide

/-- The decoder's first group is RSVD ≠ 000 (30_encoding R64). -/
theorem decode_eq_reservedBits_iff (c : Cmd) :
    Sys2Proof.decode c = .error .reservedBits ↔ (splitCmd c).rsvd ≠ 0b000#3 := by
  rcases decode_cases c with ⟨hrsvd, h⟩ | ⟨hrsvd, -, h⟩ | ⟨hrsvd, k, -, ⟨-, h⟩ | ⟨i, -, h⟩⟩ <;>
    simp [h, hrsvd]

/-- The decoder's second group is KIND = 11 with RSVD = 000 (30_encoding R64). -/
theorem decode_eq_reservedKind_iff (c : Cmd) : Sys2Proof.decode c = .error .reservedKind ↔
    (splitCmd c).kind = 0b11#2 ∧ (splitCmd c).rsvd = 0b000#3 := by
  rw [← kindOfCode_eq_none_iff]
  rcases decode_cases c with
      ⟨hrsvd, h⟩ | ⟨hrsvd, hkind, h⟩ | ⟨hrsvd, k, hkind, ⟨-, h⟩ | ⟨i, -, h⟩⟩ <;>
    simp [*]

/-- The decoder's third group is the floats of 8 and 16 bits with RSVD = 000 (30_encoding R64). -/
theorem decode_eq_noSuchFloatWidth_iff (c : Cmd) :
    Sys2Proof.decode c = .error .noSuchFloatWidth ↔
      (splitCmd c).rsvd = 0b000#3 ∧ kindOfCode (splitCmd c).kind = some .float ∧
        (widthOfCode (splitCmd c).wcode = .w8 ∨ widthOfCode (splitCmd c).wcode = .w16) := by
  rcases decode_cases c with
      ⟨hrsvd, h⟩ | ⟨hrsvd, hkind, h⟩ | ⟨hrsvd, k, hkind, ⟨hnone, h⟩ | ⟨i, hsome, h⟩⟩
  · simp [h, hrsvd]
  · simp [h, hkind]
  · rw [instrOfCodec_eq_none_iff] at hnone
    simpa [h, hrsvd, hkind] using hnone
  · have hcodec := instrOfCodec_eq_none_iff
      ⟨dirOfCode (splitCmd c).dir, k, widthOfCode (splitCmd c).wcode⟩
    simpa [h, hrsvd, hkind, hsome] using hcodec

/-- Settles O5: each group by the decoder's test for it. -/
theorem illegalGroupsAreNamed : Obligations.IllegalGroupsAreNamed :=
  ⟨decode_eq_reservedKind_iff,
    fun c => (decode_eq_noSuchFloatWidth_iff c).trans (mem_floatWidthWords_iff c).symm,
    fun c => (decode_eq_reservedBits_iff c).trans (rsvd_ne_zero_iff c)⟩

end Sys2Proof.Proofs
